-- ==== Sys2Proof/Word.lean ====
section
/-! DEFINITION. The word types of the core: data bytes, 16-bit instruction words, 12-bit addresses, register indices (00_scope.md R6, R8, R9). -/

namespace Sys2Proof

/-- A data byte: a general register, a memory byte, a timer (10_state.md R13; 20_memory.md R30). -/
abbrev Byte := BitVec 8

/-- An instruction word, bit 15 the most significant bit of the first byte fetched (00_scope.md R8). -/
abbrev Word := BitVec 16

/-- A 12-bit address: PC, I, a return address. Arithmetic on it wraps modulo 4096 (20_memory.md R31). -/
abbrev Addr := BitVec 12

/-- The index of a general register V0 to VF (10_state.md R13). -/
abbrev RegIdx := Fin 16

/-- The index of a key 0x0 to 0xF (10_state.md R21). -/
abbrev KeyIdx := Fin 16

/-- VF, the flag register, is V[15] (10_state.md R14). -/
abbrev vF : RegIdx := 15

end Sys2Proof
end

