-- ==== Sys2Proof/Config.lean ====
section
/-! DEFINITION. What an implementation or the outside fixes: the random source and the number of steps in a frame (00_scope.md R7). The constants have no body, so no proof can see a value of them. -/

namespace Sys2Proof

/-- The random source `RAND`: the byte of its k-th draw. A free input with no law (60_exceptions.md R111; 93_implementation_defined.md U7); log 3. -/
opaque Config.randDraw : Nat → Byte

/-- How far `IPF` lies above its least value 1; log 7. -/
opaque Config.ipfAboveOne : Nat

/-- `IPF`, instructions per frame: an integer at least 1, fixed for a run (00_scope.md R7; 93_implementation_defined.md U8); log 7. -/
def Config.ipf : Nat := Config.ipfAboveOne + 1

end Sys2Proof
end

