-- ==== Sys2Proof/Syntax.lean ====
section
/-! DEFINITION. The instructions: one constructor per row of spec/opcode_table.json (30_encoding.md R55). -/

namespace Sys2Proof

/-- The 35 instructions, in the table's order. `x`, `y` name registers, `nn` is an 8-bit and `nnn` a 12-bit immediate, `n` a sprite height (30_encoding.md R45, R46). -/
inductive Instr where
  /-- `0NNN` SYS nnn (40_control_flow.md R57). -/
  | sys (nnn : Addr)
  /-- `00E0` CLS (43_display.md R85). -/
  | cls
  /-- `00EE` RET (40_control_flow.md R58). -/
  | ret
  /-- `1NNN` JP nnn (40_control_flow.md R59). -/
  | jp (nnn : Addr)
  /-- `2NNN` CALL nnn (40_control_flow.md R60). -/
  | call (nnn : Addr)
  /-- `3XNN` SE Vx, nn (40_control_flow.md R61). -/
  | seImm (x : RegIdx) (nn : Byte)
  /-- `4XNN` SNE Vx, nn (40_control_flow.md R62). -/
  | sneImm (x : RegIdx) (nn : Byte)
  /-- `5XY0` SE Vx, Vy (40_control_flow.md R63). -/
  | seReg (x y : RegIdx)
  /-- `6XNN` LD Vx, nn (41_alu.md R67). -/
  | ldImm (x : RegIdx) (nn : Byte)
  /-- `7XNN` ADD Vx, nn (41_alu.md R68). -/
  | addImm (x : RegIdx) (nn : Byte)
  /-- `8XY0` LD Vx, Vy (41_alu.md R69). -/
  | ldReg (x y : RegIdx)
  /-- `8XY1` OR Vx, Vy (41_alu.md R70). -/
  | orReg (x y : RegIdx)
  /-- `8XY2` AND Vx, Vy (41_alu.md R71). -/
  | andReg (x y : RegIdx)
  /-- `8XY3` XOR Vx, Vy (41_alu.md R72). -/
  | xorReg (x y : RegIdx)
  /-- `8XY4` ADD Vx, Vy (41_alu.md R73). -/
  | addReg (x y : RegIdx)
  /-- `8XY5` SUB Vx, Vy (41_alu.md R74). -/
  | subReg (x y : RegIdx)
  /-- `8XY6` SHR Vx; the y field is carried but ignored (41_alu.md R75). -/
  | shr (x y : RegIdx)
  /-- `8XY7` SUBN Vx, Vy (41_alu.md R76). -/
  | subn (x y : RegIdx)
  /-- `8XYE` SHL Vx; the y field is carried but ignored (41_alu.md R77). -/
  | shl (x y : RegIdx)
  /-- `9XY0` SNE Vx, Vy (40_control_flow.md R64). -/
  | sneReg (x y : RegIdx)
  /-- `ANNN` LD I, nnn (42_index_memory.md R79). -/
  | ldI (nnn : Addr)
  /-- `BNNN` JP V0, nnn (40_control_flow.md R65). -/
  | jpV0 (nnn : Addr)
  /-- `CXNN` RND Vx, nn (41_alu.md R78). -/
  | rnd (x : RegIdx) (nn : Byte)
  /-- `DXYN` DRW Vx, Vy, n (43_display.md R87). -/
  | drw (x y : RegIdx) (n : Fin 16)
  /-- `EX9E` SKP Vx (44_keys_timers.md R88). -/
  | skp (x : RegIdx)
  /-- `EXA1` SKNP Vx (44_keys_timers.md R89). -/
  | sknp (x : RegIdx)
  /-- `FX07` LD Vx, DT (44_keys_timers.md R91). -/
  | ldVxDt (x : RegIdx)
  /-- `FX0A` LD Vx, K (44_keys_timers.md R90). -/
  | ldVxK (x : RegIdx)
  /-- `FX15` LD DT, Vx (44_keys_timers.md R92). -/
  | ldDtVx (x : RegIdx)
  /-- `FX18` LD ST, Vx (44_keys_timers.md R93). -/
  | ldStVx (x : RegIdx)
  /-- `FX1E` ADD I, Vx (42_index_memory.md R80). -/
  | addI (x : RegIdx)
  /-- `FX29` LD F, Vx (42_index_memory.md R81). -/
  | ldF (x : RegIdx)
  /-- `FX33` LD B, Vx (42_index_memory.md R82). -/
  | ldB (x : RegIdx)
  /-- `FX55` LD [I], Vx (42_index_memory.md R83). -/
  | storeRegs (x : RegIdx)
  /-- `FX65` LD Vx, [I] (42_index_memory.md R84). -/
  | loadRegs (x : RegIdx)
deriving DecidableEq, Repr

end Sys2Proof
end

