-- ==== Sys2Proof/Decode.lean ====
section
/-! DEFINITION. Decoding: fields, the total decoder on words and on bytes, the encoder, and the rows of the opcode table (30_encoding.md R44–R55). -/

namespace Sys2Proof

/-! ## Fields of a word (30_encoding.md R45) -/

/-- `op`, bits 15:12. -/
def fieldOp (w : Word) : BitVec 4 := w.extractLsb' 12 4

/-- `x`, bits 11:8, the index of Vx. -/
def fieldX (w : Word) : RegIdx := (w.extractLsb' 8 4).toFin

/-- `y`, bits 7:4, the index of Vy. -/
def fieldY (w : Word) : RegIdx := (w.extractLsb' 4 4).toFin

/-- `n`, bits 3:0, a sprite height or a minor opcode. -/
def fieldN (w : Word) : Fin 16 := (w.extractLsb' 0 4).toFin

/-- `nn`, bits 7:0. -/
def fieldNn (w : Word) : Byte := w.extractLsb' 0 8

/-- `nnn`, bits 11:0. -/
def fieldNnn (w : Word) : Addr := w.extractLsb' 0 12

/-! ## The decoder -/

/-- Why bytes are not an instruction. -/
inductive DecodeError where
  /-- The word matches no row of the table (30_encoding.md R51). -/
  | unknownOpcode (w : Word)
  /-- Fewer than two bytes: a decoder always consumes two (30_encoding.md R44); log 15. -/
  | truncated
deriving DecidableEq, Repr

/-- Major opcode 0x8: the minor opcode is `n` (30_encoding.md R55). -/
def decode8 (w : Word) : Except DecodeError Instr :=
  match (fieldN w).val with
  | 0x0 => .ok (.ldReg (fieldX w) (fieldY w))
  | 0x1 => .ok (.orReg (fieldX w) (fieldY w))
  | 0x2 => .ok (.andReg (fieldX w) (fieldY w))
  | 0x3 => .ok (.xorReg (fieldX w) (fieldY w))
  | 0x4 => .ok (.addReg (fieldX w) (fieldY w))
  | 0x5 => .ok (.subReg (fieldX w) (fieldY w))
  | 0x6 => .ok (.shr (fieldX w) (fieldY w))
  | 0x7 => .ok (.subn (fieldX w) (fieldY w))
  | 0xE => .ok (.shl (fieldX w) (fieldY w))
  | _ => .error (.unknownOpcode w)

/-- Major opcode 0xE: the minor opcode is `nn` (30_encoding.md R55). -/
def decodeE (w : Word) : Except DecodeError Instr :=
  match (fieldNn w).toNat with
  | 0x9E => .ok (.skp (fieldX w))
  | 0xA1 => .ok (.sknp (fieldX w))
  | _ => .error (.unknownOpcode w)

/-- Major opcode 0xF: the minor opcode is `nn` (30_encoding.md R55). -/
def decodeF (w : Word) : Except DecodeError Instr :=
  match (fieldNn w).toNat with
  | 0x07 => .ok (.ldVxDt (fieldX w))
  | 0x0A => .ok (.ldVxK (fieldX w))
  | 0x15 => .ok (.ldDtVx (fieldX w))
  | 0x18 => .ok (.ldStVx (fieldX w))
  | 0x1E => .ok (.addI (fieldX w))
  | 0x29 => .ok (.ldF (fieldX w))
  | 0x33 => .ok (.ldB (fieldX w))
  | 0x55 => .ok (.storeRegs (fieldX w))
  | 0x65 => .ok (.loadRegs (fieldX w))
  | _ => .error (.unknownOpcode w)

/-- A word with `n` fixed to 0 (rows 5XY0 and 9XY0); strict decoding (30_encoding.md R51). -/
def decodeN0 (i : Instr) (w : Word) : Except DecodeError Instr :=
  if fieldN w = 0 then .ok i else .error (.unknownOpcode w)

/-- Decode a word: the instruction of its row, or `unknownOpcode` (30_encoding.md R49, R51). It reads only the word (R53). -/
def decodeWord (w : Word) : Except DecodeError Instr :=
  match (fieldOp w).toNat with
  | 0x0 =>
    if w = 0x00E0#16 then .ok .cls
    else if w = 0x00EE#16 then .ok .ret
    else .ok (.sys (fieldNnn w))
  | 0x1 => .ok (.jp (fieldNnn w))
  | 0x2 => .ok (.call (fieldNnn w))
  | 0x3 => .ok (.seImm (fieldX w) (fieldNn w))
  | 0x4 => .ok (.sneImm (fieldX w) (fieldNn w))
  | 0x5 => decodeN0 (.seReg (fieldX w) (fieldY w)) w
  | 0x6 => .ok (.ldImm (fieldX w) (fieldNn w))
  | 0x7 => .ok (.addImm (fieldX w) (fieldNn w))
  | 0x8 => decode8 w
  | 0x9 => decodeN0 (.sneReg (fieldX w) (fieldY w)) w
  | 0xA => .ok (.ldI (fieldNnn w))
  | 0xB => .ok (.jpV0 (fieldNnn w))
  | 0xC => .ok (.rnd (fieldX w) (fieldNn w))
  | 0xD => .ok (.drw (fieldX w) (fieldY w) (fieldN w))
  | 0xE => decodeE w
  | _ => decodeF w

/-- A word from its two bytes, the one at the lower address first and most significant (20_memory.md R32). -/
def wordOfBytes (hi lo : Byte) : Word := hi ++ lo

/-- The two bytes of a word in the order memory holds them (20_memory.md R32). -/
def bytesOfWord (w : Word) : Byte × Byte := (w.extractLsb' 8 8, w.extractLsb' 0 8)

/-- Decode the first instruction of a list of bytes and return the rest of the list: two bytes an instruction (30_encoding.md R44). -/
def decode : List Byte → Except DecodeError (Instr × List Byte)
  | hi :: lo :: rest =>
    match decodeWord (wordOfBytes hi lo) with
    | .ok i => .ok (i, rest)
    | .error e => .error e
  | [] => .error .truncated
  | [_] => .error .truncated

/-! ## The encoder (30_encoding.md R45, R55) -/

/-- `op` and `nnn`. -/
def packNnn (op : BitVec 4) (nnn : Addr) : Word := op ++ nnn

/-- `op`, `x` and `nn`. -/
def packXnn (op : BitVec 4) (x : RegIdx) (nn : Byte) : Word := op ++ (BitVec.ofFin x : BitVec 4) ++ nn

/-- `op`, `x`, `y` and `n`. -/
def packXyn (op : BitVec 4) (x y : RegIdx) (n : Fin 16) : Word :=
  op ++ (BitVec.ofFin x : BitVec 4) ++ (BitVec.ofFin y : BitVec 4) ++ (BitVec.ofFin n : BitVec 4)

/-- The word of a well-formed instruction (30_encoding.md R55, columns match and mask). -/
def encode : Instr → Word
  | .sys nnn => packNnn 0x0#4 nnn
  | .cls => 0x00E0#16
  | .ret => 0x00EE#16
  | .jp nnn => packNnn 0x1#4 nnn
  | .call nnn => packNnn 0x2#4 nnn
  | .seImm x nn => packXnn 0x3#4 x nn
  | .sneImm x nn => packXnn 0x4#4 x nn
  | .seReg x y => packXyn 0x5#4 x y 0x0
  | .ldImm x nn => packXnn 0x6#4 x nn
  | .addImm x nn => packXnn 0x7#4 x nn
  | .ldReg x y => packXyn 0x8#4 x y 0x0
  | .orReg x y => packXyn 0x8#4 x y 0x1
  | .andReg x y => packXyn 0x8#4 x y 0x2
  | .xorReg x y => packXyn 0x8#4 x y 0x3
  | .addReg x y => packXyn 0x8#4 x y 0x4
  | .subReg x y => packXyn 0x8#4 x y 0x5
  | .shr x y => packXyn 0x8#4 x y 0x6
  | .subn x y => packXyn 0x8#4 x y 0x7
  | .shl x y => packXyn 0x8#4 x y 0xE
  | .sneReg x y => packXyn 0x9#4 x y 0x0
  | .ldI nnn => packNnn 0xA#4 nnn
  | .jpV0 nnn => packNnn 0xB#4 nnn
  | .rnd x nn => packXnn 0xC#4 x nn
  | .drw x y n => packXyn 0xD#4 x y n
  | .skp x => packXnn 0xE#4 x 0x9E#8
  | .sknp x => packXnn 0xE#4 x 0xA1#8
  | .ldVxDt x => packXnn 0xF#4 x 0x07#8
  | .ldVxK x => packXnn 0xF#4 x 0x0A#8
  | .ldDtVx x => packXnn 0xF#4 x 0x15#8
  | .ldStVx x => packXnn 0xF#4 x 0x18#8
  | .addI x => packXnn 0xF#4 x 0x1E#8
  | .ldF x => packXnn 0xF#4 x 0x29#8
  | .ldB x => packXnn 0xF#4 x 0x33#8
  | .storeRegs x => packXnn 0xF#4 x 0x55#8
  | .loadRegs x => packXnn 0xF#4 x 0x65#8

/-- The bytes of an instruction in memory order. -/
def encodeBytes (i : Instr) : List Byte := [(bytesOfWord (encode i)).1, (bytesOfWord (encode i)).2]

/-! ## The rows of the opcode table, as the spec prints them (30_encoding.md R55) -/

/-- One row's `match` and `mask`: a word matches when `(w AND mask) = match`. -/
structure OpcodeRow where
  pattern : Word
  mask : Word
deriving DecidableEq, Repr

/-- The word matches the row. -/
def OpcodeRow.fits (r : OpcodeRow) (w : Word) : Bool := (w &&& r.mask) == r.pattern

/-- The row of R55 that an instruction stands for; written from the table, not from `encode`. -/
def Instr.row : Instr → OpcodeRow
  | .sys _ => ⟨0x0000#16, 0xF000#16⟩
  | .cls => ⟨0x00E0#16, 0xFFFF#16⟩
  | .ret => ⟨0x00EE#16, 0xFFFF#16⟩
  | .jp _ => ⟨0x1000#16, 0xF000#16⟩
  | .call _ => ⟨0x2000#16, 0xF000#16⟩
  | .seImm _ _ => ⟨0x3000#16, 0xF000#16⟩
  | .sneImm _ _ => ⟨0x4000#16, 0xF000#16⟩
  | .seReg _ _ => ⟨0x5000#16, 0xF00F#16⟩
  | .ldImm _ _ => ⟨0x6000#16, 0xF000#16⟩
  | .addImm _ _ => ⟨0x7000#16, 0xF000#16⟩
  | .ldReg _ _ => ⟨0x8000#16, 0xF00F#16⟩
  | .orReg _ _ => ⟨0x8001#16, 0xF00F#16⟩
  | .andReg _ _ => ⟨0x8002#16, 0xF00F#16⟩
  | .xorReg _ _ => ⟨0x8003#16, 0xF00F#16⟩
  | .addReg _ _ => ⟨0x8004#16, 0xF00F#16⟩
  | .subReg _ _ => ⟨0x8005#16, 0xF00F#16⟩
  | .shr _ _ => ⟨0x8006#16, 0xF00F#16⟩
  | .subn _ _ => ⟨0x8007#16, 0xF00F#16⟩
  | .shl _ _ => ⟨0x800E#16, 0xF00F#16⟩
  | .sneReg _ _ => ⟨0x9000#16, 0xF00F#16⟩
  | .ldI _ => ⟨0xA000#16, 0xF000#16⟩
  | .jpV0 _ => ⟨0xB000#16, 0xF000#16⟩
  | .rnd _ _ => ⟨0xC000#16, 0xF000#16⟩
  | .drw _ _ _ => ⟨0xD000#16, 0xF000#16⟩
  | .skp _ => ⟨0xE09E#16, 0xF0FF#16⟩
  | .sknp _ => ⟨0xE0A1#16, 0xF0FF#16⟩
  | .ldVxDt _ => ⟨0xF007#16, 0xF0FF#16⟩
  | .ldVxK _ => ⟨0xF00A#16, 0xF0FF#16⟩
  | .ldDtVx _ => ⟨0xF015#16, 0xF0FF#16⟩
  | .ldStVx _ => ⟨0xF018#16, 0xF0FF#16⟩
  | .addI _ => ⟨0xF01E#16, 0xF0FF#16⟩
  | .ldF _ => ⟨0xF029#16, 0xF0FF#16⟩
  | .ldB _ => ⟨0xF033#16, 0xF0FF#16⟩
  | .storeRegs _ => ⟨0xF055#16, 0xF0FF#16⟩
  | .loadRegs _ => ⟨0xF065#16, 0xF0FF#16⟩

/-! ## The host's question -/

/-- The instruction this decoder reads from an instruction whose bits are `w`, numbered as spec/opcode_table.json numbers them (bit 15 is the most significant bit of the first byte); its two bytes are laid out as memory holds them and given to `decode`. Bits at or above `nbits` are 0, and an instruction has no bits above 15 (30_encoding.md R44). -/
def decodeTableWord (nbits w : Nat) : Option Instr :=
  let b := bytesOfWord (BitVec.ofNat 16 (w % 2 ^ nbits))
  match decode [b.1, b.2] with
  | .ok (i, _) => some i
  | .error _ => none

end Sys2Proof
end

