-- ==== Sys2Proof/Machine/State.lean ====
section
/-! DEFINITION. The state of the core as plain data, and the state after reset (10_state.md R13–R27). -/

namespace Sys2Proof.Machine

/-- The kinds of diagnostic (60_exceptions.md R95). -/
inductive DiagKind where
  /-- A word that matches no row, or a SYS word. -/
  | unknownOpcode
  /-- `2NNN` with SP = 16. -/
  | stackOverflow
  /-- `00EE` with SP = 0. -/
  | stackUnderflow
deriving DecidableEq, Repr

/-- One event of the diagnostic stream: the kind, the instruction's address and its word (60_exceptions.md R94). -/
structure DiagEvent where
  kind : DiagKind
  addr : Addr
  word : Word
deriving DecidableEq, Repr

/-- One event of the tone-edge stream (60_exceptions.md R106). -/
inductive ToneEdge where
  | start
  | stop
deriving DecidableEq, Repr

/-- What a `Step` returns (30_encoding.md R50). -/
inductive Status where
  /-- The instruction completed, whether or not a skip or a jump was taken. -/
  | executed
  /-- `FX0A` found no key pressed; PC is back at the `FX0A`. -/
  | blocked
  /-- The instruction raised a diagnostic. -/
  | diagnosed (kind : DiagKind)
deriving DecidableEq, Repr

/-- Reasons to stop with a fault: none. The core has no trap and "No error is expected to terminate the process" (60_exceptions.md R94, R99); a type without constructors, so no meaning can raise one (safe; log 13). -/
inductive Fault where
deriving DecidableEq, Repr

/-- Reasons to refuse an instruction. -/
inductive Refusal where
  /-- Only an arm of `exec` whose instruction has no meaning yet would answer this (safe); no arm does. -/
  | notModelled (mnemonic : String)
deriving DecidableEq, Repr

/-- Memory: (address, byte) pairs with strictly rising addresses, listing exactly the cells that differ from what an unlisted address reads as; log 5. -/
abbrev Memory := List Host.Cell

/-- The framebuffer: 32 rows of 64 one-bit pixels (10_state.md R22). -/
abbrev FrameBuffer := Vector (Vector Bool 64) 32

/-- Everything the spec gives the core (10_state.md R13–R24), and two fields of the model's own, `draws` and `status`. -/
structure State where
  /-- V[0..15] (R13). -/
  v : Vector Byte 16
  /-- I (R15). -/
  i : Addr
  /-- PC (R16). -/
  pc : Addr
  /-- STACK[0..15] (R17). -/
  stack : Vector Addr 16
  /-- SP, the number of return addresses held, 0 to 16 (R18). -/
  sp : Fin 17
  /-- DT (R19). -/
  dt : Byte
  /-- ST (R20). -/
  st : Byte
  /-- KEY[0..15], true meaning pressed (R21). -/
  key : Vector Bool 16
  /-- FB (R22). -/
  fb : FrameBuffer
  /-- DRAW (R23). -/
  draw : Bool
  /-- M (20_memory.md R30). -/
  mem : Memory
  /-- The tone-edge stream, oldest first (R24). -/
  tone : List ToneEdge
  /-- The diagnostic stream, oldest first (R24). -/
  diag : List DiagEvent
  /-- The model's own: how many draws the random source has given; log 3. -/
  draws : Nat
  /-- The model's own: what the last `Step` returned (30_encoding.md R50); log 2. -/
  status : Status
deriving DecidableEq, Repr

/-- The state right after `reset` (10_state.md R27; 70_reset_and_hazards.md R114). Memory lists nothing, and an unlisted address reads as R27 says. DESIGN CHOICE for the model's own fields: no draw taken, status Executed (log 2, log 3). -/
def State.reset : State where
  v := Vector.replicate 16 0x00#8
  i := 0x000#12
  pc := 0x200#12
  stack := Vector.replicate 16 0x000#12
  sp := 0
  dt := 0#8
  st := 0#8
  key := Vector.replicate 16 false
  fb := Vector.replicate 32 (Vector.replicate 64 false)
  draw := false
  mem := []
  tone := []
  diag := []
  draws := 0
  status := .executed

end Sys2Proof.Machine
end

