-- ==== Sys2Proof/Machine/Memory.lean ====
section
/-! DEFINITION. Memory as a list of cells in one canonical form: what an unlisted address reads as, reading, writing, the form (20_memory.md R30; 10_state.md R27, R28). -/

namespace Sys2Proof.Machine

/-- The 80 font bytes, glyph d at 5*d (10_state.md R28; general knowledge there, log 6). -/
def font : List Byte :=
  [0xF0, 0x90, 0x90, 0x90, 0xF0]      -- 0
  ++ [0x20, 0x60, 0x20, 0x20, 0x70]   -- 1
  ++ [0xF0, 0x10, 0xF0, 0x80, 0xF0]   -- 2
  ++ [0xF0, 0x10, 0xF0, 0x10, 0xF0]   -- 3
  ++ [0x90, 0x90, 0xF0, 0x10, 0x10]   -- 4
  ++ [0xF0, 0x80, 0xF0, 0x10, 0xF0]   -- 5
  ++ [0xF0, 0x80, 0xF0, 0x90, 0xF0]   -- 6
  ++ [0xF0, 0x10, 0x20, 0x40, 0x40]   -- 7
  ++ [0xF0, 0x90, 0xF0, 0x90, 0xF0]   -- 8
  ++ [0xF0, 0x90, 0xF0, 0x10, 0xF0]   -- 9
  ++ [0xF0, 0x90, 0xF0, 0x90, 0x90]   -- A
  ++ [0xE0, 0x90, 0xE0, 0x90, 0xE0]   -- B
  ++ [0xF0, 0x80, 0x80, 0x80, 0xF0]   -- C
  ++ [0xE0, 0x90, 0x90, 0x90, 0xE0]   -- D
  ++ [0xF0, 0x80, 0xF0, 0x80, 0xF0]   -- E
  ++ [0xF0, 0x80, 0xF0, 0x80, 0x80]   -- F

/-- What an address that no cell lists reads as: the reset contents, the font at 0x000..0x04F and 0x00 elsewhere (10_state.md R27). -/
def unlistedByte (a : Nat) : Byte := font.getD a 0x00#8

/-- The byte at an address. -/
def Memory.read : Memory → Nat → Byte
  | [], a => unlistedByte a
  | (k, b) :: rest, a => if k = a then b else Memory.read rest a

/-- Drop the cells of an address. -/
def Memory.erase (m : Memory) (a : Nat) : Memory := m.filter (fun cell => cell.1 != a)

/-- Put a cell in front of the first cell at a higher address. -/
def Memory.insert : Memory → Nat → Byte → Memory
  | [], a, b => [(a, b)]
  | (k, c) :: rest, a, b => if a < k then (a, b) :: (k, c) :: rest else (k, c) :: Memory.insert rest a b

/-- Store a byte at an address: the old cell goes, and a new one is listed unless it says what an unlisted address says. -/
def Memory.write (m : Memory) (a : Nat) (b : Byte) : Memory :=
  if b = unlistedByte a then Memory.erase m a else Memory.insert (Memory.erase m a) a b

/-- The cells lie at or above `lo`, strictly rising, below 4096, and none says what an unlisted address says. -/
def Memory.wfFrom : Nat → Memory → Bool
  | _, [] => true
  | lo, (k, b) :: rest =>
    decide (lo ≤ k) && decide (k < 4096) && decide (b ≠ unlistedByte k) && Memory.wfFrom (k + 1) rest

/-- The canonical form, over the whole address space 0x000..0xFFF (20_memory.md R30). -/
def Memory.wf (m : Memory) : Bool := Memory.wfFrom 0 m

end Sys2Proof.Machine
end

