-- ==== Sys2Proof/Machine/Ops.lean ====
section
/-! DEFINITION. The named operations over registers, memory, stack, framebuffer and streams; the one shared way to raise a diagnostic; how an instruction ends (00_scope.md R10). -/

namespace Sys2Proof.Machine

/-- The outcome of a step of this core. -/
abbrev Result := Host.Outcome State Fault Refusal

/-! ## One update per field. Every instruction changes the state through these. -/

/-- `V[r]` (10_state.md R13). -/
def State.getV (s : State) (r : RegIdx) : Byte := s.v[r.val]

/-- `V[r] <- b`. -/
def State.setV (s : State) (r : RegIdx) (b : Byte) : State := { s with v := s.v.set r.val b }

/-- All of `V[0..15]` at once. -/
def State.setRegs (s : State) (v : Vector Byte 16) : State := { s with v := v }

/-- `I <- a`; a 12-bit address is already reduced (10_state.md R15). -/
def State.setI (s : State) (a : Addr) : State := { s with i := a }

/-- `pc <- a`; a 12-bit address is already reduced (10_state.md R16). -/
def State.setPc (s : State) (a : Addr) : State := { s with pc := a }

/-- `STACK[k] <- a`. -/
def State.setSlot (s : State) (k : Fin 16) (a : Addr) : State := { s with stack := s.stack.set k.val a }

/-- `SP <- n`. -/
def State.setSp (s : State) (n : Fin 17) : State := { s with sp := n }

/-- `DT <- b`. -/
def State.setDt (s : State) (b : Byte) : State := { s with dt := b }

/-- `ST <- b`, the timer alone. -/
def State.setSt (s : State) (b : Byte) : State := { s with st := b }

/-- `KEY[k] <- p`. -/
def State.setKeyBit (s : State) (k : KeyIdx) (p : Bool) : State := { s with key := s.key.set k.val p }

/-- `FB <- fb`. -/
def State.setFb (s : State) (fb : FrameBuffer) : State := { s with fb := fb }

/-- `DRAW <- d`. -/
def State.setDraw (s : State) (d : Bool) : State := { s with draw := d }

/-- `M <- m`. -/
def State.setMem (s : State) (m : Memory) : State := { s with mem := m }

/-- `emit e`: append a tone edge (00_scope.md R10). -/
def State.emitTone (s : State) (e : ToneEdge) : State := { s with tone := s.tone ++ [e] }

/-- Append a diagnostic event (60_exceptions.md R94). -/
def State.emitDiag (s : State) (e : DiagEvent) : State := { s with diag := s.diag ++ [e] }

/-- The random source has given one more draw; log 3. -/
def State.countDraw (s : State) : State := { s with draws := s.draws + 1 }

/-- What this `Step` returns (30_encoding.md R50); log 2. -/
def State.setStatus (s : State) (t : Status) : State := { s with status := t }

/-! ## How an instruction ends (30_encoding.md R50) -/

/-- The instruction completed: status `Executed`. -/
def executed (s : State) : Result := .next (s.setStatus .executed)

/-- The instruction's own address `a`: inside a rule PC holds `(a + 2) mod 4096` (30_encoding.md R48), so `a = (PC - 2) mod 4096`. DEDUCED, log 11. -/
def State.instrAddr (s : State) : Addr := s.pc - 2#12

/-- `raise Diagnostic(kind, a, w)`: the event is appended, the status is `Diagnosed(kind)`, and nothing else happens (60_exceptions.md R94, R99). This is the core's only exception; it saves no state, transfers control nowhere, and there is no return from it (R100). -/
def raiseDiagnostic (kind : DiagKind) (a : Addr) (w : Word) (s : State) : Result :=
  .next ((s.emitDiag ⟨kind, a, w⟩).setStatus (.diagnosed kind))

/-- `Block`: PC goes back to the instruction's own address and the status is `Blocked` (44_keys_timers.md R90). -/
def block (s : State) : Result := .next ((s.setPc s.instrAddr).setStatus .blocked)

/-! ## Memory (20_memory.md R31–R35) -/

/-- `MemRead(a, 1)`. -/
def State.readByte (s : State) (a : Addr) : Byte := Memory.read s.mem a.toNat

/-- `MemWrite(a, 1, b)`. -/
def State.writeByte (s : State) (a : Addr) (b : Byte) : State := s.setMem (Memory.write s.mem a.toNat b)

/-- `I + k`, reduced modulo 4096 (20_memory.md R31). -/
def State.iPlus (s : State) (k : Nat) : Addr := s.i + BitVec.ofNat 12 k

/-- `Fetch16(a)`: two bytes, big-endian (20_memory.md R32). -/
def State.fetch16 (s : State) (a : Addr) : Word := wordOfBytes (s.readByte a) (s.readByte (a + 1#12))

/-- Store a word where `fetch16` reads it. -/
def State.writeWord (s : State) (a : Addr) (w : Word) : State :=
  (s.writeByte a (bytesOfWord w).1).writeByte (a + 1#12) (bytesOfWord w).2

/-! ## Program counter and call stack (10_state.md R16–R18) -/

/-- `pc <- PC + 2`: the fetch's advance (30_encoding.md R48) and a taken skip's (40_control_flow.md). -/
def State.advancePc (s : State) : State := s.setPc (s.pc + 2#12)

/-- `STACK[SP] <- a; SP <- SP + 1`, or nothing when the stack is full (40_control_flow.md R60). -/
def State.push (s : State) (a : Addr) : Option State :=
  if h : s.sp.val < 16 then
    some ((s.setSlot ⟨s.sp.val, h⟩ a).setSp ⟨s.sp.val + 1, by omega⟩)
  else none

/-- `SP <- SP - 1`, and the address `STACK[SP]`, or nothing when the stack is empty; the popped slot keeps its value (40_control_flow.md R58; 10_state.md R17). -/
def State.pop (s : State) : Option (State × Addr) :=
  if h : 0 < s.sp.val then
    some (s.setSp ⟨s.sp.val - 1, by omega⟩, s.stack[s.sp.val - 1]'(by omega))
  else none

/-! ## Framebuffer (10_state.md R22) -/

/-- `FB[r][c]`. -/
def FrameBuffer.pixel (fb : FrameBuffer) (r : Fin 32) (c : Fin 64) : Bool := fb[r.val][c.val]

/-- `FB[r][c] <- p`. -/
def FrameBuffer.setPixel (fb : FrameBuffer) (r : Fin 32) (c : Fin 64) (p : Bool) : FrameBuffer :=
  fb.set r.val (fb[r.val].set c.val p)

/-- Every pixel 0. -/
def FrameBuffer.blank : FrameBuffer := Vector.replicate 32 (Vector.replicate 64 false)

/-! ## Sound timer and random source -/

/-- The tone level: on exactly while ST ≠ 0 (60_exceptions.md R105). -/
def State.toneOn (s : State) : Bool := s.st != 0#8

/-- `ST <- b` with the tone edge of the change, if the level changes (44_keys_timers.md R93; 60_exceptions.md R106). -/
def State.writeSt (s : State) (b : Byte) : State :=
  if s.st = 0#8 ∧ b ≠ 0#8 then (s.setSt b).emitTone .start
  else if s.st ≠ 0#8 ∧ b = 0#8 then (s.setSt b).emitTone .stop
  else s.setSt b

/-- `RandDraw8()`: the byte the random source gives next (60_exceptions.md R111); log 3. -/
def State.nextDraw (s : State) : Byte := Config.randDraw s.draws

end Sys2Proof.Machine
end

