-- ==== Sys2Proof/Machine/Operands.lean ====
section
/-! DEFINITION. What an instruction makes of its operands: key index, glyph address, BCD digits, sprite coordinates and bits. -/

namespace Sys2Proof.Machine

/-- The key a register value names: its low nibble (44_keys_timers.md, key index). -/
def keyOf (vx : Byte) : KeyIdx := Fin.ofNat 16 (vx.toNat % 16)

/-- `KEY[k]`. -/
def State.pressed (s : State) (k : KeyIdx) : Bool := s.key[k.val]

/-- The least pressed key, if any is pressed (44_keys_timers.md R90). -/
def State.leastPressed (s : State) : Option KeyIdx := (List.finRange 16).find? s.pressed

/-- `0x000 + 5 * (vx AND 0x0F)`: the glyph of the hex digit in the low nibble (42_index_memory.md R81). -/
def glyphAddr (vx : Byte) : Addr := BitVec.ofNat 12 (0x000 + 5 * (vx.toNat % 16))

/-- `nnn + V[0]`, reduced by the PC write (40_control_flow.md R65), and `I + vx`, reduced by the write of I (42_index_memory.md R80). -/
def addrPlusByte (a : Addr) (b : Byte) : Addr := BitVec.ofNat 12 (a.toNat + b.toNat)

/-- The three BCD digits (42_index_memory.md R82). -/
def bcdHundreds (vx : Byte) : Byte := BitVec.ofNat 8 (vx.toNat / 100)

/-- See `bcdHundreds`. -/
def bcdTens (vx : Byte) : Byte := BitVec.ofNat 8 (vx.toNat / 10 % 10)

/-- See `bcdHundreds`. -/
def bcdOnes (vx : Byte) : Byte := BitVec.ofNat 8 (vx.toNat % 10)

/-- `(cy + row) mod 32` (43_display.md R86). -/
def spriteRow (cy : Byte) (row : Nat) : Fin 32 := Fin.ofNat 32 (cy.toNat + row)

/-- `(cx + col) mod 64` (43_display.md R86). -/
def spriteCol (cx : Byte) (col : Nat) : Fin 64 := Fin.ofNat 64 (cx.toNat + col)

/-- `b[7 - col]`: bit 7 is the leftmost column (43_display.md R86). -/
def spriteBit (b : Byte) (col : Nat) : Bool := b.getLsbD (7 - col)

/-- The k-th register of a block transfer, k in 0..15. -/
def blockReg (k : Nat) : RegIdx := Fin.ofNat 16 k

end Sys2Proof.Machine
end

