-- ==== Sys2Proof/Machine/Flags.lean ====
section
/-! DEFINITION. The flag computations of 8XY4–8XYE and DXYN, and the order of the VF and Vx writes (41_alu.md R66). -/

namespace Sys2Proof.Machine

/-- A flag as the value written to VF: 0 or 1. -/
def flagByte (f : Bool) : Byte := if f then 1#8 else 0#8

/-- 8XY4: carry, the exact sum exceeds 255 (41_alu.md R73). -/
def carryFlag (vx vy : Byte) : Bool := decide (vx.toNat + vy.toNat > 255)

/-- 8XY5 with (vx, vy), 8XY7 with (vy, vx): no borrow, 0 iff a < b (41_alu.md R74, R76). -/
def noBorrowFlag (a b : Byte) : Bool := !decide (a.toNat < b.toNat)

/-- 8XY6: the bit shifted out, old bit 0 (41_alu.md R75). -/
def shrFlag (vx : Byte) : Bool := vx.getLsbD 0

/-- 8XYE: the bit shifted out, old bit 7 (41_alu.md R77). -/
def shlFlag (vx : Byte) : Bool := vx.getLsbD 7

/-- `WriteFlagged(x, result, flag)`: VF first, Vx second, so x = 0xF keeps the result (41_alu.md R66). -/
def State.writeFlagged (s : State) (x : RegIdx) (result : Byte) (flag : Bool) : State :=
  (s.setV vF (flagByte flag)).setV x result

end Sys2Proof.Machine
end

