-- ==== Sys2Proof/Machine/Alu.lean ====
section
/-! DEFINITION. Register and arithmetic instructions (41_alu.md R66–R78). -/

namespace Sys2Proof.Machine

/-- `6XNN` (R67). -/
def execLdImm (x : RegIdx) (nn : Byte) (s : State) : Result := executed (s.setV x nn)

/-- `7XNN`: no flag (R68). -/
def execAddImm (x : RegIdx) (nn : Byte) (s : State) : Result :=
  executed (s.setV x (BitVec.ofNat 8 ((s.getV x).toNat + nn.toNat)))

/-- `8XY0` (R69). -/
def execLdReg (x y : RegIdx) (s : State) : Result := executed (s.setV x (s.getV y))

/-- `8XY1` (R70). -/
def execOrReg (x y : RegIdx) (s : State) : Result := executed (s.setV x (s.getV x ||| s.getV y))

/-- `8XY2` (R71). -/
def execAndReg (x y : RegIdx) (s : State) : Result := executed (s.setV x (s.getV x &&& s.getV y))

/-- `8XY3` (R72). -/
def execXorReg (x y : RegIdx) (s : State) : Result := executed (s.setV x (s.getV x ^^^ s.getV y))

/-- `8XY4`: add with carry out (R73). -/
def execAddReg (x y : RegIdx) (s : State) : Result :=
  let vx := s.getV x
  let vy := s.getV y
  executed (s.writeFlagged x (BitVec.ofNat 8 (vx.toNat + vy.toNat)) (carryFlag vx vy))

/-- `8XY5`: `(vx - vy) mod 256`, no-borrow flag (R74). -/
def execSubReg (x y : RegIdx) (s : State) : Result :=
  let vx := s.getV x
  let vy := s.getV y
  executed (s.writeFlagged x (vx - vy) (noBorrowFlag vx vy))

/-- `8XY6`: shift Vx right by one; y is ignored (R75). -/
def execShr (x _y : RegIdx) (s : State) : Result :=
  let vx := s.getV x
  executed (s.writeFlagged x (vx >>> 1) (shrFlag vx))

/-- `8XY7`: `(vy - vx) mod 256`, no-borrow flag (R76). -/
def execSubn (x y : RegIdx) (s : State) : Result :=
  let vx := s.getV x
  let vy := s.getV y
  executed (s.writeFlagged x (vy - vx) (noBorrowFlag vy vx))

/-- `8XYE`: shift Vx left by one; y is ignored (R77). -/
def execShl (x _y : RegIdx) (s : State) : Result :=
  let vx := s.getV x
  executed (s.writeFlagged x (vx <<< 1) (shlFlag vx))

/-- `CXNN`: one draw, masked by nn (R78). -/
def execRnd (x : RegIdx) (nn : Byte) (s : State) : Result :=
  executed (s.countDraw.setV x (s.nextDraw &&& nn))

end Sys2Proof.Machine
end

