-- ==== Sys2Proof/Machine/ControlFlow.lean ====
section
/-! DEFINITION. Control flow: SYS, RET, JP, CALL, the skips on registers, JP V0 (40_control_flow.md R57–R65). In every meaning PC already holds `a + 2` (30_encoding.md R48). -/

namespace Sys2Proof.Machine

/-- A skip: `pc <- PC + 2` when the condition holds (40_control_flow.md). -/
def skipIf (cond : Bool) (s : State) : Result := executed (if cond then s.advancePc else s)

/-- `0NNN`: always the diagnostic `UnknownOpcode` (R57); also on the two terms the decoder never gives (log 10). -/
def execSys (nnn : Addr) (s : State) : Result :=
  raiseDiagnostic .unknownOpcode s.instrAddr (encode (.sys nnn)) s

/-- `00EE`: pop the stack into PC, or `StackUnderflow` (R58). -/
def execRet (s : State) : Result :=
  match s.pop with
  | some (t, a) => executed (t.setPc a)
  | none => raiseDiagnostic .stackUnderflow s.instrAddr (encode .ret) s

/-- `1NNN` (R59). -/
def execJp (nnn : Addr) (s : State) : Result := executed (s.setPc nnn)

/-- `2NNN`: push PC, which is `a + 2`, and jump, or `StackOverflow` (R60). -/
def execCall (nnn : Addr) (s : State) : Result :=
  match s.push s.pc with
  | some t => executed (t.setPc nnn)
  | none => raiseDiagnostic .stackOverflow s.instrAddr (encode (.call nnn)) s

/-- `3XNN` (R61). -/
def execSeImm (x : RegIdx) (nn : Byte) (s : State) : Result := skipIf (s.getV x == nn) s

/-- `4XNN` (R62). -/
def execSneImm (x : RegIdx) (nn : Byte) (s : State) : Result := skipIf (s.getV x != nn) s

/-- `5XY0` (R63). -/
def execSeReg (x y : RegIdx) (s : State) : Result := skipIf (s.getV x == s.getV y) s

/-- `9XY0` (R64). -/
def execSneReg (x y : RegIdx) (s : State) : Result := skipIf (s.getV x != s.getV y) s

/-- `BNNN`: `pc <- nnn + V[0]` (R65). -/
def execJpV0 (nnn : Addr) (s : State) : Result := executed (s.setPc (addrPlusByte nnn (s.getV 0)))

end Sys2Proof.Machine
end

