-- ==== Sys2Proof/Machine/Display.lean ====
section
/-! DEFINITION. Display: CLS, and DRW with the sprite XOR blit and its collision detector (43_display.md R85–R87). -/

namespace Sys2Proof.Machine

/-- `00E0`: every pixel 0, DRAW raised (R85). -/
def execCls (s : State) : Result := executed ((s.setFb FrameBuffer.blank).setDraw true)

/-- A set sprite bit at (r, c): a collision if the pixel was 1, and the pixel toggles (R87). -/
def blitPixel (r : Fin 32) (c : Fin 64) (p : FrameBuffer × Bool) : FrameBuffer × Bool :=
  (FrameBuffer.setPixel p.1 r c (!FrameBuffer.pixel p.1 r c), p.2 || FrameBuffer.pixel p.1 r c)

/-- The first `cols` columns of one sprite row, column 0 first (R87). -/
def blitRow (b cx cy : Byte) (row : Nat) : Nat → FrameBuffer × Bool → FrameBuffer × Bool
  | 0, p => p
  | col + 1, p =>
    let q := blitRow b cx cy row col p
    if spriteBit b col then blitPixel (spriteRow cy row) (spriteCol cx col) q else q

/-- The first `rows` rows of the sprite at I, row 0 first (R87). -/
def blitRows (s : State) (cx cy : Byte) : Nat → FrameBuffer × Bool → FrameBuffer × Bool
  | 0, p => p
  | row + 1, p => blitRow (s.readByte (s.iPlus row)) cx cy row 8 (blitRows s cx cy row p)

/-- `DXYN`: the coordinates are read before VF is cleared; VF ends as the collision flag, and DRAW is raised unconditionally (R87). -/
def execDrw (x y : RegIdx) (n : Fin 16) (s : State) : Result :=
  let p := blitRows s (s.getV x) (s.getV y) n.val (s.fb, false)
  executed (((s.setV vF (flagByte p.2)).setFb p.1).setDraw true)

end Sys2Proof.Machine
end

