-- ==== Sys2Proof/Machine/IndexMemory.lean ====
section
/-! DEFINITION. Address register and memory instructions (42_index_memory.md R79–R84). -/

namespace Sys2Proof.Machine

/-- `ANNN` (R79). -/
def execLdI (nnn : Addr) (s : State) : Result := executed (s.setI nnn)

/-- `FX1E`: no flag (R80). -/
def execAddI (x : RegIdx) (s : State) : Result := executed (s.setI (addrPlusByte s.i (s.getV x)))

/-- `FX29` (R81). -/
def execLdF (x : RegIdx) (s : State) : Result := executed (s.setI (glyphAddr (s.getV x)))

/-- `FX33`: three digits to I, I + 1, I + 2 (R82). -/
def execLdB (x : RegIdx) (s : State) : Result :=
  let vx := s.getV x
  executed (((s.writeByte (s.iPlus 0) (bcdHundreds vx)).writeByte (s.iPlus 1) (bcdTens vx)).writeByte
    (s.iPlus 2) (bcdOnes vx))

/-- Store the first n registers of `v` at `base`, `base + 1`, …, in ascending order (R83; 20_memory.md R41). -/
def storeBlock (v : Vector Byte 16) (base : Addr) : Nat → Memory → Memory
  | 0, m => m
  | n + 1, m =>
    Memory.write (storeBlock v base n m) (base + BitVec.ofNat 12 n).toNat v[(blockReg n).val]

/-- Load the first n registers from `base`, `base + 1`, …, in ascending order (R84; 20_memory.md R41). -/
def loadBlock (m : Memory) (base : Addr) : Nat → Vector Byte 16 → Vector Byte 16
  | 0, v => v
  | n + 1, v =>
    (loadBlock m base n v).set (blockReg n).val (Memory.read m (base + BitVec.ofNat 12 n).toNat)

/-- `FX55`: store V0..Vx, then `I <- I + x + 1` (R83). -/
def execStoreRegs (x : RegIdx) (s : State) : Result :=
  executed ((s.setMem (storeBlock s.v s.i (x.val + 1) s.mem)).setI (s.iPlus (x.val + 1)))

/-- `FX65`: load V0..Vx, then `I <- I + x + 1` (R84). -/
def execLoadRegs (x : RegIdx) (s : State) : Result :=
  executed ((s.setRegs (loadBlock s.mem s.i (x.val + 1) s.v)).setI (s.iPlus (x.val + 1)))

end Sys2Proof.Machine
end

