-- ==== Sys2Proof/Machine/KeysTimers.lean ====
section
/-! DEFINITION. Key skips, the key wait, and the timer moves (44_keys_timers.md R88–R93). -/

namespace Sys2Proof.Machine

/-- `EX9E` (R88). -/
def execSkp (x : RegIdx) (s : State) : Result := skipIf (s.pressed (keyOf (s.getV x))) s

/-- `EXA1` (R89). -/
def execSknp (x : RegIdx) (s : State) : Result := skipIf (!s.pressed (keyOf (s.getV x))) s

/-- `FX0A`: the least pressed key into Vx, or block (R90). -/
def execLdVxK (x : RegIdx) (s : State) : Result :=
  match s.leastPressed with
  | some k => executed (s.setV x (BitVec.ofNat 8 k.val))
  | none => block s

/-- `FX07` (R91). -/
def execLdVxDt (x : RegIdx) (s : State) : Result := executed (s.setV x s.dt)

/-- `FX15` (R92). -/
def execLdDtVx (x : RegIdx) (s : State) : Result := executed (s.setDt (s.getV x))

/-- `FX18`, with the tone edge of the change (R93). -/
def execLdStVx (x : RegIdx) (s : State) : Result := executed (s.writeSt (s.getV x))

end Sys2Proof.Machine
end

