-- ==== Sys2Proof/Machine/Step.lean ====
section
/-! DEFINITION. One `Step`: fetch, advance PC, decode, execute (30_encoding.md R47, R48). -/

namespace Sys2Proof.Machine

/-- `Step()`. Its three statuses stand in the next state's `status` (30_encoding.md R50); no step faults or is refused. -/
def step (s : State) : Host.Outcome State Fault Refusal :=
  match decodeWord (s.fetch16 s.pc) with
  | .ok i => exec i s.advancePc
  | .error _ => raiseDiagnostic .unknownOpcode s.pc (s.fetch16 s.pc) s.advancePc

/-- The state with an instruction stored where `step` fetches next: its two bytes, big-endian, at PC and PC + 1 (30_encoding.md R48). It stands for a program loaded from outside (log 4). Bits of `w` at or above `nbits` are 0, and an instruction has 16 bits (30_encoding.md R44). -/
def State.withFetchWord (s : State) (nbits w : Nat) : State :=
  s.writeWord s.pc (BitVec.ofNat 16 (w % 2 ^ nbits))

end Sys2Proof.Machine
end

