-- ==== Sys2Proof/Machine/HostOps.lean ====
section
/-! DEFINITION. The operations the host calls between frames: reset, loadProgram, setKey, advanceFrame with its tick, frameBuffer, consumeDrawFlag (60_exceptions.md R102–R110; 70_reset_and_hazards.md R114–R118). -/

namespace Sys2Proof.Machine

/-- Errors returned to the caller of a host operation (60_exceptions.md R96). -/
inductive HostError where
  /-- `loadProgram` of more than 3584 bytes (70_reset_and_hazards.md R117). -/
  | imageTooLarge
  /-- `setKey` with an index outside 0..15 (60_exceptions.md R109). -/
  | invalidKey
deriving DecidableEq, Repr

/-- `reset()` (70_reset_and_hazards.md R114). Every item takes its reset value; the random source is outside the core, so its draws go on and are not drawn again (log 3). -/
def hostReset (s : State) : State := { State.reset with draws := s.draws }

/-- The program load address, also the reset PC (00_scope.md R6). -/
def loadBase : Nat := 0x200

/-- The largest program image, 4096 − 0x200 bytes (00_scope.md R6). -/
def maxImage : Nat := 4096 - loadBase

/-- Copy bytes to memory from address a up, in order. -/
def copyBytes : List Byte → Nat → Memory → Memory
  | [], _, m => m
  | b :: rest, a, m => copyBytes rest (a + 1) (Memory.write m a b)

/-- `loadProgram(bytes)`: the state after it and its error, if any (70_reset_and_hazards.md R116, R117). -/
def loadProgram (bytes : List Byte) (s : State) : State × Option HostError :=
  if bytes.length > maxImage then (s, some .imageTooLarge)
  else (s.setMem (copyBytes bytes loadBase s.mem), none)

/-- `setKey(index, pressed)`: the state after it and its error, if any (60_exceptions.md R109). -/
def setKey (index : Nat) (pressed : Bool) (s : State) : State × Option HostError :=
  if h : index < 16 then (s.setKeyBit ⟨index, h⟩ pressed, none) else (s, some .invalidKey)

/-- `frameBuffer()`: the grid as it stands (60_exceptions.md R108). -/
def frameBuffer (s : State) : FrameBuffer := s.fb

/-- `consumeDrawFlag()`: the value of DRAW, which is then cleared (60_exceptions.md R110). -/
def consumeDrawFlag (s : State) : State × Bool := (s.setDraw false, s.draw)

/-- The delay timer's part of the tick (60_exceptions.md R103). -/
def tickDelay (s : State) : State := if s.dt.toNat > 0 then s.setDt (s.dt - 1#8) else s

/-- The sound timer's part of the tick (60_exceptions.md R103). -/
def tickSound (s : State) : State :=
  if s.st.toNat > 0 then
    if s.st - 1#8 = 0#8 then (s.setSt (s.st - 1#8)).emitTone .stop else s.setSt (s.st - 1#8)
  else s

/-- `Tick()`: delay timer first (60_exceptions.md R103). -/
def tick (s : State) : State := tickSound (tickDelay s)

/-- Up to n steps, ending early at a `Blocked` status (60_exceptions.md R102). -/
def runSteps : Nat → State → Result
  | 0, s => .next s
  | n + 1, s =>
    match step s with
    | .next t => if t.status = .blocked then .next t else runSteps n t
    | .fault r => .fault r
    | .refused r => .refused r

/-- `advanceFrame()` with `ipf` instructions per frame: up to `ipf` steps, then one tick (60_exceptions.md R102; 00_scope.md R7). -/
def advanceFrame (ipf : Nat) (s : State) : Result :=
  match runSteps ipf s with
  | .next t => .next (tick t)
  | .fault r => .fault r
  | .refused r => .refused r

/-- The frame of this core, at its own `IPF` (log 7). -/
def coreFrame (s : State) : Result := advanceFrame Config.ipf s

/-- f frames in a row with no host operation between them (70_reset_and_hazards.md R119 a). -/
def runFrames (ipf : Nat) : Nat → State → Result
  | 0, s => .next s
  | f + 1, s =>
    match advanceFrame ipf s with
    | .next t => runFrames ipf f t
    | .fault r => .fault r
    | .refused r => .refused r

/-- The boot sequence's first two operations (70_reset_and_hazards.md R118). -/
def boot (bytes : List Byte) (s : State) : State × Option HostError := loadProgram bytes (hostReset s)

/-- The operations of the host interface (60_exceptions.md R107). -/
inductive HostOp where
  | reset
  | loadProgram (bytes : List Byte)
  | setKey (index : Nat) (pressed : Bool)
  | advanceFrame
  | frameBuffer
  | consumeDrawFlag
deriving DecidableEq, Repr

/-- What a host operation returns (60_exceptions.md R107); log 14. -/
inductive HostReply where
  | done
  | failed (e : HostError)
  | pixels (fb : FrameBuffer)
  | flag (b : Bool)
deriving DecidableEq, Repr

/-- The reply of an operation that may fail. -/
def replyOf : Option HostError → HostReply
  | none => .done
  | some e => .failed e

/-- One host operation, whole, between frames (60_exceptions.md R107; 70_reset_and_hazards.md R121). -/
def runHostOp (ipf : Nat) (op : HostOp) (s : State) : Host.Outcome (State × HostReply) Fault Refusal :=
  match op with
  | .reset => .next (hostReset s, .done)
  | .loadProgram bytes => .next ((loadProgram bytes s).1, replyOf (loadProgram bytes s).2)
  | .setKey index pressed => .next ((setKey index pressed s).1, replyOf (setKey index pressed s).2)
  | .advanceFrame =>
    match advanceFrame ipf s with
    | .next t => .next (t, .done)
    | .fault r => .fault r
    | .refused r => .refused r
  | .frameBuffer => .next (s, .pixels (frameBuffer s))
  | .consumeDrawFlag => .next ((consumeDrawFlag s).1, .flag (consumeDrawFlag s).2)

end Sys2Proof.Machine
end

