-- ==== Sys2Proof/Safety.lean ====
section
/-! DEFINITION. The terms claims use: which items two states agree on, the frame of an instruction, and the invariant of the core. -/

namespace Sys2Proof

open Sys2Proof.Machine

/-- The items of state of 10_state.md R13–R24, and the count of draws taken. -/
inductive Item where
  | v | i | pc | stack | sp | dt | st | key | fb | draw | mem | tone | diag | draws
deriving DecidableEq, Repr

/-- The item is the same in both states. Memory is compared byte by byte, the framebuffer pixel by pixel, the registers one by one. -/
def Item.same : Item → State → State → Prop
  | .v, s, t => ∀ r : RegIdx, t.getV r = s.getV r
  | .i, s, t => t.i = s.i
  | .pc, s, t => t.pc = s.pc
  | .stack, s, t => t.stack = s.stack
  | .sp, s, t => t.sp = s.sp
  | .dt, s, t => t.dt = s.dt
  | .st, s, t => t.st = s.st
  | .key, s, t => t.key = s.key
  | .fb, s, t => ∀ (r : Fin 32) (c : Fin 64), FrameBuffer.pixel t.fb r c = FrameBuffer.pixel s.fb r c
  | .draw, s, t => t.draw = s.draw
  | .mem, s, t => ∀ a : Addr, t.readByte a = s.readByte a
  | .tone, s, t => t.tone = s.tone
  | .diag, s, t => t.diag = s.diag
  | .draws, s, t => t.draws = s.draws

/-- Every item outside the list is the same in both states: the frame of an operation. -/
def unchangedExcept (changed : List Item) (s t : State) : Prop :=
  ∀ item : Item, item ∉ changed → item.same s t

/-- Every general register outside the list is the same in both states. -/
def regsExcept (changed : List RegIdx) (s t : State) : Prop :=
  ∀ r : RegIdx, r ∉ changed → t.getV r = s.getV r

/-- t is s with one diagnostic event of this kind, address and word appended, and nothing else changed but the status (60_exceptions.md R94). -/
def onlyDiagnosed (kind : DiagKind) (a : Addr) (w : Word) (s t : State) : Prop :=
  t.diag = s.diag ++ [⟨kind, a, w⟩] ∧ t.status = .diagnosed kind ∧ unchangedExcept [.diag] s t

/-- Which items each instruction may change after the fetch: the writers of 10_state.md R13–R25, and the diagnostic stream for the instructions that raise a diagnostic (60_exceptions.md R95). -/
def Instr.mayWrite : Instr → List Item
  | .sys _ => [.diag]
  | .cls => [.fb, .draw]
  | .ret => [.pc, .sp, .diag]
  | .jp _ | .seImm _ _ | .sneImm _ _ | .seReg _ _ | .sneReg _ _ | .jpV0 _ | .skp _ | .sknp _ => [.pc]
  | .call _ => [.pc, .stack, .sp, .diag]
  | .ldImm _ _ | .addImm _ _ | .ldReg _ _ | .orReg _ _ | .andReg _ _ | .xorReg _ _ | .addReg _ _
  | .subReg _ _ | .shr _ _ | .subn _ _ | .shl _ _ | .ldVxDt _ => [.v]
  | .ldI _ | .addI _ | .ldF _ => [.i]
  | .rnd _ _ => [.v, .draws]
  | .drw _ _ _ => [.v, .fb, .draw]
  | .ldVxK _ => [.v, .pc]
  | .ldDtVx _ => [.dt]
  | .ldStVx _ => [.st, .tone]
  | .ldB _ => [.mem]
  | .storeRegs _ => [.mem, .i]
  | .loadRegs _ => [.v, .i]

/-- Which general registers each instruction may change: its destination Vx, VF for the instructions that write it as a flag, V0..Vx for FX65 (10_state.md R14; 42_index_memory.md R84). -/
def Instr.destRegs : Instr → List RegIdx
  | .ldImm x _ | .addImm x _ | .ldReg x _ | .orReg x _ | .andReg x _ | .xorReg x _ | .rnd x _
  | .ldVxDt x | .ldVxK x => [x]
  | .addReg x _ | .subReg x _ | .shr x _ | .subn x _ | .shl x _ => [x, vF]
  | .drw _ _ _ => [vF]
  | .loadRegs x => (List.finRange 16).filter (fun r => decide (r ≤ x))
  | .sys _ | .cls | .ret | .jp _ | .call _ | .seImm _ _ | .sneImm _ _ | .seReg _ _ | .sneReg _ _
  | .ldI _ | .jpV0 _ | .skp _ | .sknp _ | .ldDtVx _ | .ldStVx _ | .addI _ | .ldF _ | .ldB _
  | .storeRegs _ => []

/-- The words that match no row, as the table of 30_encoding.md R51 lists them: by major opcode `w[15:12]`, minor opcode `w[3:0]` or `w[7:0]`. -/
abbrev unknownWord (w : Word) : Prop :=
  (w.toNat / 4096 = 0x5 ∧ w.toNat % 16 ≠ 0)
  ∨ (w.toNat / 4096 = 0x8 ∧ w.toNat % 16 ∈ [0x8, 0x9, 0xA, 0xB, 0xC, 0xD, 0xF])
  ∨ (w.toNat / 4096 = 0x9 ∧ w.toNat % 16 ≠ 0)
  ∨ (w.toNat / 4096 = 0xE ∧ w.toNat % 256 ∉ [0x9E, 0xA1])
  ∨ (w.toNat / 4096 = 0xF ∧ w.toNat % 256 ∉ [0x07, 0x0A, 0x15, 0x18, 0x1E, 0x29, 0x33, 0x55, 0x65])

/-- Some set bit of the n-row sprite at I, drawn at column cx and row cy, lands on pixel (r, c): sprite row `row` is the byte at `I + row`, bit 7 of it is column 0, and the position wraps (43_display.md R86). -/
def spriteCovers (s : State) (cx cy : Byte) (n : Nat) (r : Fin 32) (c : Fin 64) : Prop :=
  ∃ row < n, ∃ col < 8, (s.readByte (s.i + BitVec.ofNat 12 row)).getLsbD (7 - col) = true
    ∧ r.val = (cy.toNat + row) % 32 ∧ c.val = (cx.toNat + col) % 64

/-- The level at the end of a stream of tone edges that begins at `level`, if every edge is a change of the level. -/
def toneReplay : Bool → List ToneEdge → Option Bool
  | level, [] => some level
  | false, .start :: rest => toneReplay true rest
  | true, .stop :: rest => toneReplay false rest
  | false, .stop :: _ => none
  | true, .start :: _ => none

/-- Each change of the tone level since reset, when it was off, has been reported exactly once, and the level is on exactly while ST ≠ 0 (60_exceptions.md R105, R106). -/
def toneReported (s : State) : Prop := toneReplay false s.tone = some s.toneOn

/-- The invariant of the core: memory in its canonical form, the tone stream in step with ST. -/
def coreInv (s : State) : Prop := s.mem.wf = true ∧ toneReported s

/-- PC holds h and the word at h is the jump to h itself (70_reset_and_hazards.md R119 b). -/
def haltedAt (h : Addr) (s : State) : Prop := s.pc = h ∧ s.fetch16 h = (0x1#4 ++ h : BitVec (4 + 12))

end Sys2Proof
end

