-- ==== Sys2Proof/Certificates/Slice0/Obligations.lean ====
section
/-! DEFINITION. The statements for the provers, from the numbered rules of spec/. In a statement about `exec`, PC already holds the instruction's address plus 2 (30_encoding.md R48). Items and frames are those of Sys2Proof/Safety.lean. -/

open Sys2Proof Sys2Proof.Machine

/-! ## Encoding and decoding -/

/-- Words written out from the encodings of 30_encoding.md R55 decode to their instructions: one or more of each family, and two unknown words. -/
def Obligations.SampleWordsDecodeAsTheTableSays : Prop :=
  decodeWord 0x0123#16 = .ok (.sys 0x123#12) ∧ decodeWord 0x00E0#16 = .ok .cls
  ∧ decodeWord 0x00EE#16 = .ok .ret ∧ decodeWord 0x220C#16 = .ok (.call 0x20C#12)
  ∧ decodeWord 0x3305#16 = .ok (.seImm 3 0x05#8) ∧ decodeWord 0x8124#16 = .ok (.addReg 1 2)
  ∧ decodeWord 0x8F0E#16 = .ok (.shl 15 0) ∧ decodeWord 0xA2F0#16 = .ok (.ldI 0x2F0#12)
  ∧ decodeWord 0xF255#16 = .ok (.storeRegs 2) ∧ decodeWord 0xD015#16 = .ok (.drw 0 1 5)
  ∧ decodeWord 0xE19E#16 = .ok (.skp 1) ∧ decodeWord 0xF10A#16 = .ok (.ldVxK 1)
  ∧ decodeWord 0x5121#16 = .error (.unknownOpcode 0x5121#16)
  ∧ decodeWord 0xF100#16 = .error (.unknownOpcode 0xF100#16)

/-- Decoding the word, or the bytes, of a well-formed instruction gives the instruction back, at every value of every operand, and leaves the bytes after it. -/
def Obligations.DecodeOfEncodeIsTheInstruction : Prop :=
  ∀ i : Instr, i.wf = true →
    decodeWord (encode i) = .ok i ∧ ∀ rest : List Byte, decode (encodeBytes i ++ rest) = .ok (i, rest)

/-- A word that decodes is the word of its instruction, which is well-formed and whose row of the opcode table the word fits: each word has one meaning. -/
def Obligations.DecodedWordIsItsInstructionsWord : Prop :=
  ∀ (w : Word) (i : Instr), decodeWord w = .ok i →
    encode i = w ∧ i.wf = true ∧ (w &&& i.row.mask) = i.row.pattern

/-- A word fits the rows of two instructions only if the rows are the same, or one of the two is SYS and the other CLS or RET, which come before it (30_encoding.md R49). -/
def Obligations.NoWordFitsTwoRowsButSys : Prop :=
  ∀ (w : Word) (i j : Instr), i.row.fits w = true → j.row.fits w = true →
    i.row = j.row ∨ ((∃ nnn, i = .sys nnn) ∧ (j = .cls ∨ j = .ret))
      ∨ ((∃ nnn, j = .sys nnn) ∧ (i = .cls ∨ i = .ret))

/-- Exactly the words listed in 30_encoding.md R51 are unknown, in the numbers listed there; a step on one advances PC by 2, appends the event, and does nothing else. -/
def Obligations.UnknownWordsAreDiagnosedNoOps : Prop :=
  (∀ w : Word, decodeWord w = .error (.unknownOpcode w) ↔ unknownWord w)
  ∧ (∀ op : Fin 16, (List.range 4096).countP (fun k => decide (unknownWord (BitVec.ofNat 16 (op.val * 4096 + k))))
      = match op.val with
        | 0x5 => 3840
        | 0x8 => 1792
        | 0x9 => 3840
        | 0xE => 4064
        | 0xF => 3952
        | _ => 0)
  ∧ ∀ s : State, unknownWord (s.fetch16 s.pc) →
      ∃ t, step s = .next t ∧ t.pc = s.pc + 2#12
        ∧ t.diag = s.diag ++ [⟨.unknownOpcode, s.pc, s.fetch16 s.pc⟩]
        ∧ t.status = .diagnosed .unknownOpcode ∧ unchangedExcept [.pc, .diag] s t

/-! ## The step -/

/-- When the bytes at PC and PC + 1, big-endian, form a word that decodes to an instruction, the step is that instruction's rule on the state with PC advanced by 2; when the word is unknown, the step raises UnknownOpcode with that address and word on that state. -/
def Obligations.StepRunsTheDecodedInstruction : Prop :=
  ∀ (s : State) (w : Word),
    w.toNat = (s.readByte s.pc).toNat * 256 + (s.readByte (s.pc + 1#12)).toNat →
    (∀ i : Instr, decodeWord w = .ok i → step s = exec i (s.setPc (s.pc + 2#12)))
    ∧ (decodeWord w = .error (.unknownOpcode w) →
        step s = raiseDiagnostic .unknownOpcode s.pc w (s.setPc (s.pc + 2#12)))

/-- Every step and every instruction's rule goes on: no state makes the core stop, however many steps are run. -/
def Obligations.TheCoreNeverStops : Prop :=
  (∀ (i : Instr) (s : State), ∃ t, exec i s = .next t) ∧ (∀ s : State, ∃ t, step s = .next t)
  ∧ ∀ (k : Nat) (s : State), ∃ t, Host.Core.run Sys2Proof.core k s = .next t

/-- A step that ends Diagnosed(kind) advanced PC by 2, appended the event with its own address and word, and did nothing else; a step that ends otherwise appended no event. -/
def Obligations.DiagnosedStepHasNoOtherEffect : Prop :=
  ∀ s t : State, step s = .next t →
    (∀ kind : DiagKind, t.status = .diagnosed kind →
      t.pc = s.pc + 2#12 ∧ t.diag = s.diag ++ [⟨kind, s.pc, s.fetch16 s.pc⟩]
        ∧ unchangedExcept [.pc, .diag] s t)
    ∧ ((∀ kind : DiagKind, t.status ≠ .diagnosed kind) → t.diag = s.diag)

/-- Each kind of diagnostic has exactly the cause 60_exceptions.md R95 gives it, and records the instruction's address and word. -/
def Obligations.DiagnosticsHaveExactlyTheirCauses : Prop :=
  ∀ s t : State, step s = .next t →
    (t.status = .diagnosed .unknownOpcode ↔
      unknownWord (s.fetch16 s.pc) ∨ ∃ nnn, decodeWord (s.fetch16 s.pc) = .ok (.sys nnn))
    ∧ (t.status = .diagnosed .stackOverflow ↔
      (∃ nnn, decodeWord (s.fetch16 s.pc) = .ok (.call nnn)) ∧ s.sp.val = 16)
    ∧ (t.status = .diagnosed .stackUnderflow ↔
      decodeWord (s.fetch16 s.pc) = .ok .ret ∧ s.sp.val = 0)
    ∧ ∀ kind : DiagKind, t.status = .diagnosed kind →
        t.diag = s.diag ++ [⟨kind, s.pc, s.fetch16 s.pc⟩]

/-- A step ends Blocked exactly when it fetched FX0A and no key is pressed; then PC is back at the FX0A and no item has changed. -/
def Obligations.BlockedStepIsAnUnsatisfiedKeyWait : Prop :=
  ∀ s t : State, step s = .next t →
    (t.status = .blocked ↔
      (∃ x, decodeWord (s.fetch16 s.pc) = .ok (.ldVxK x)) ∧ ∀ k : Fin 16, s.key[k.val] = false)
    ∧ (t.status = .blocked → unchangedExcept [] s t)

/-! ## Control flow -/

/-- SYS, for every nnn but 0x0E0 and 0x0EE, is always the diagnostic UnknownOpcode at its own address with its own word, and nothing else. -/
def Obligations.SysIsADiagnosedNoOp : Prop :=
  ∀ (s : State) (a nnn : Addr), (Instr.sys nnn).wf = true → s.pc = a + 2#12 →
    ∃ t, exec (.sys nnn) s = .next t ∧ onlyDiagnosed .unknownOpcode a (BitVec.ofNat 16 nnn.toNat) s t

/-- RET pops the stack into PC, clearing no slot; on an empty stack it is the diagnostic StackUnderflow and nothing else. -/
def Obligations.RetPopsTheStackIntoPc : Prop :=
  ∀ (s : State) (a : Addr), s.pc = a + 2#12 →
    (s.sp.val = 0 → ∃ t, exec .ret s = .next t ∧ onlyDiagnosed .stackUnderflow a 0x00EE#16 s t)
    ∧ (s.sp.val ≠ 0 → ∃ t, exec .ret s = .next t ∧ t.status = .executed
        ∧ t.sp.val + 1 = s.sp.val ∧ s.stack[t.sp.val]? = some t.pc ∧ unchangedExcept [.sp, .pc] s t)

/-- JP sets PC to nnn and changes nothing else. -/
def Obligations.JpSetsPc : Prop :=
  ∀ (s : State) (nnn : Addr), ∃ t, exec (.jp nnn) s = .next t ∧ t.status = .executed
    ∧ t.pc = nnn ∧ unchangedExcept [.pc] s t

/-- CALL pushes PC, the address after the call, and sets PC to nnn; on a full stack it is the diagnostic StackOverflow and nothing else. -/
def Obligations.CallPushesTheReturnAddress : Prop :=
  ∀ (s : State) (a nnn : Addr), s.pc = a + 2#12 →
    (s.sp.val = 16 → ∃ t, exec (.call nnn) s = .next t
        ∧ onlyDiagnosed .stackOverflow a (BitVec.ofNat 16 (0x2000 + nnn.toNat)) s t)
    ∧ (s.sp.val < 16 → ∃ t, exec (.call nnn) s = .next t ∧ t.status = .executed
        ∧ t.stack[s.sp.val]? = some (a + 2#12)
        ∧ (∀ k : Nat, k ≠ s.sp.val → t.stack[k]? = s.stack[k]?)
        ∧ t.sp.val = s.sp.val + 1 ∧ t.pc = nnn ∧ unchangedExcept [.stack, .sp, .pc] s t)

/-- A RET that follows a completed CALL, from whatever address PC then holds, returns to the address after the call with SP as before the call. -/
def Obligations.RetAfterCallReturnsBehindTheCall : Prop :=
  ∀ (s t : State) (nnn b : Addr), s.sp.val < 16 → exec (.call nnn) s = .next t →
    ∃ u, exec .ret (t.setPc b) = .next u ∧ u.pc = s.pc ∧ u.sp = s.sp

/-- SE and SNE with an immediate skip two more bytes exactly when Vx equals, or does not equal, nn. -/
def Obligations.ImmediateSkips : Prop :=
  ∀ (s : State) (x : RegIdx) (nn : Byte),
    (∃ t, exec (.seImm x nn) s = .next t ∧ t.status = .executed
      ∧ t.pc = (if s.getV x = nn then s.pc + 2#12 else s.pc) ∧ unchangedExcept [.pc] s t)
    ∧ (∃ t, exec (.sneImm x nn) s = .next t ∧ t.status = .executed
      ∧ t.pc = (if s.getV x ≠ nn then s.pc + 2#12 else s.pc) ∧ unchangedExcept [.pc] s t)

/-- SE and SNE on two registers skip two more bytes exactly when Vx equals, or does not equal, Vy. -/
def Obligations.RegisterSkips : Prop :=
  ∀ (s : State) (x y : RegIdx),
    (∃ t, exec (.seReg x y) s = .next t ∧ t.status = .executed
      ∧ t.pc = (if s.getV x = s.getV y then s.pc + 2#12 else s.pc) ∧ unchangedExcept [.pc] s t)
    ∧ (∃ t, exec (.sneReg x y) s = .next t ∧ t.status = .executed
      ∧ t.pc = (if s.getV x ≠ s.getV y then s.pc + 2#12 else s.pc) ∧ unchangedExcept [.pc] s t)

/-- JP V0 sets PC to nnn + V0 modulo 4096. -/
def Obligations.JpV0AddsV0 : Prop :=
  ∀ (s : State) (nnn : Addr), ∃ t, exec (.jpV0 nnn) s = .next t ∧ t.status = .executed
    ∧ t.pc.toNat = (nnn.toNat + (s.getV 0).toNat) % 4096 ∧ unchangedExcept [.pc] s t

/-! ## Register and arithmetic -/

/-- LD loads the immediate; ADD adds it modulo 256 with no flag. -/
def Obligations.ImmediateLoadAndAdd : Prop :=
  ∀ (s : State) (x : RegIdx) (nn : Byte),
    (∃ t, exec (.ldImm x nn) s = .next t ∧ t.status = .executed
      ∧ t.getV x = nn ∧ regsExcept [x] s t ∧ unchangedExcept [.v] s t)
    ∧ (∃ t, exec (.addImm x nn) s = .next t ∧ t.status = .executed
      ∧ (t.getV x).toNat = ((s.getV x).toNat + nn.toNat) % 256 ∧ regsExcept [x] s t ∧ unchangedExcept [.v] s t)

/-- LD, OR, AND and XOR on two registers write Vx and no other register; VF is not cleared. -/
def Obligations.MoveAndLogicWriteOnlyVx : Prop :=
  ∀ (s : State) (x y : RegIdx),
    (∃ t, exec (.ldReg x y) s = .next t ∧ t.status = .executed
      ∧ t.getV x = s.getV y ∧ regsExcept [x] s t ∧ unchangedExcept [.v] s t)
    ∧ (∃ t, exec (.orReg x y) s = .next t ∧ t.status = .executed
      ∧ t.getV x = s.getV x ||| s.getV y ∧ regsExcept [x] s t ∧ unchangedExcept [.v] s t)
    ∧ (∃ t, exec (.andReg x y) s = .next t ∧ t.status = .executed
      ∧ t.getV x = s.getV x &&& s.getV y ∧ regsExcept [x] s t ∧ unchangedExcept [.v] s t)
    ∧ (∃ t, exec (.xorReg x y) s = .next t ∧ t.status = .executed
      ∧ t.getV x = s.getV x ^^^ s.getV y ∧ regsExcept [x] s t ∧ unchangedExcept [.v] s t)

/-- 8XY4: Vx is the sum of the old values modulo 256; VF is 1 iff the sum exceeds 255, unless x = 0xF, where VF keeps the sum. -/
def Obligations.AddSetsVxAndCarry : Prop :=
  ∀ (s : State) (x y : RegIdx), ∃ t, exec (.addReg x y) s = .next t ∧ t.status = .executed
    ∧ (t.getV x).toNat = ((s.getV x).toNat + (s.getV y).toNat) % 256
    ∧ (x ≠ 15 → t.getV 15 = if (s.getV x).toNat + (s.getV y).toNat > 255 then 1#8 else 0#8)
    ∧ regsExcept [x, 15] s t ∧ unchangedExcept [.v] s t

/-- 8XY5 and 8XY7: Vx is the difference of the old values modulo 256; VF is 0 iff the subtrahend is the greater, unless x = 0xF, where VF keeps the difference. -/
def Obligations.SubtractionsSetVxAndNoBorrow : Prop :=
  ∀ (s : State) (x y : RegIdx),
    (∃ t, exec (.subReg x y) s = .next t ∧ t.status = .executed
      ∧ ((t.getV x).toNat : Int) = (((s.getV x).toNat : Int) - ((s.getV y).toNat : Int)) % 256
      ∧ (x ≠ 15 → t.getV 15 = if (s.getV x).toNat < (s.getV y).toNat then 0#8 else 1#8)
      ∧ regsExcept [x, 15] s t ∧ unchangedExcept [.v] s t)
    ∧ (∃ t, exec (.subn x y) s = .next t ∧ t.status = .executed
      ∧ ((t.getV x).toNat : Int) = (((s.getV y).toNat : Int) - ((s.getV x).toNat : Int)) % 256
      ∧ (x ≠ 15 → t.getV 15 = if (s.getV y).toNat < (s.getV x).toNat then 0#8 else 1#8)
      ∧ regsExcept [x, 15] s t ∧ unchangedExcept [.v] s t)

/-- 8XY6 and 8XYE: Vx is shifted by one, a zero enters, VF is the bit shifted out unless x = 0xF, and y is ignored. -/
def Obligations.ShiftsSetVxAndTheBitShiftedOut : Prop :=
  ∀ (s : State) (x y : RegIdx),
    (∃ t, exec (.shr x y) s = .next t ∧ t.status = .executed
      ∧ (t.getV x).toNat = (s.getV x).toNat / 2
      ∧ (x ≠ 15 → (t.getV 15).toNat = (s.getV x).toNat % 2)
      ∧ regsExcept [x, 15] s t ∧ unchangedExcept [.v] s t)
    ∧ (∃ t, exec (.shl x y) s = .next t ∧ t.status = .executed
      ∧ (t.getV x).toNat = (s.getV x).toNat * 2 % 256
      ∧ (x ≠ 15 → (t.getV 15).toNat = (s.getV x).toNat / 128)
      ∧ regsExcept [x, 15] s t ∧ unchangedExcept [.v] s t)

/-- The five flag instructions compute from the old values, write VF first and Vx second: so for x = 0xF VF ends holding the result, and for y = 0xF the old VF is the operand. -/
def Obligations.FlagIsWrittenBeforeTheResult : Prop :=
  ∀ (s : State) (x y : RegIdx) (i : Instr) (result flag : Byte),
    (i, result, flag) ∈
      [(Instr.addReg x y, s.getV x + s.getV y,
          if (s.getV x).toNat + (s.getV y).toNat > 255 then 1#8 else 0#8),
       (Instr.subReg x y, s.getV x - s.getV y, if (s.getV x).toNat < (s.getV y).toNat then 0#8 else 1#8),
       (Instr.shr x y, s.getV x >>> 1, s.getV x &&& 1#8),
       (Instr.subn x y, s.getV y - s.getV x, if (s.getV y).toNat < (s.getV x).toNat then 0#8 else 1#8),
       (Instr.shl x y, s.getV x <<< 1, s.getV x >>> 7)] →
    ∃ t, exec i s = .next t ∧ t.v = (s.v.set 15 flag).set x.val result ∧ unchangedExcept [.v] s t

/-- RND takes exactly one draw of the random source and puts its bits under the mask nn into Vx, whatever the draw is. -/
def Obligations.RndTakesOneDrawUnderTheMask : Prop :=
  ∀ (s : State) (x : RegIdx) (nn : Byte), ∃ t, exec (.rnd x nn) s = .next t ∧ t.status = .executed
    ∧ t.getV x = Config.randDraw s.draws &&& nn ∧ t.draws = s.draws + 1
    ∧ regsExcept [x] s t ∧ unchangedExcept [.v, .draws] s t

/-- Every instruction but RND takes no draw and does not depend on how many have been taken. -/
def Obligations.OnlyRndUsesTheRandomSource : Prop :=
  ∀ (i : Instr) (s t : State) (k : Nat), (∀ x nn, i ≠ .rnd x nn) → exec i s = .next t →
    t.draws = s.draws ∧ exec i { s with draws := k } = .next { t with draws := k }

/-! ## Address register and memory -/

/-- LD I loads nnn; ADD I adds Vx modulo 4096 with no flag; LD F points I at the glyph of the low nibble of Vx. -/
def Obligations.AddressRegisterWrites : Prop :=
  (∀ (s : State) (nnn : Addr), ∃ t, exec (.ldI nnn) s = .next t ∧ t.status = .executed
    ∧ t.i = nnn ∧ unchangedExcept [.i] s t)
  ∧ (∀ (s : State) (x : RegIdx), ∃ t, exec (.addI x) s = .next t ∧ t.status = .executed
    ∧ t.i.toNat = (s.i.toNat + (s.getV x).toNat) % 4096 ∧ unchangedExcept [.i] s t)
  ∧ ∀ (s : State) (x : RegIdx), ∃ t, exec (.ldF x) s = .next t ∧ t.status = .executed
    ∧ t.i.toNat = 5 * ((s.getV x).toNat % 16) ∧ unchangedExcept [.i] s t

/-- FX33 writes the three decimal digits of Vx to I, I + 1, I + 2, reduced modulo 4096; every other byte of memory reads as before. -/
def Obligations.BcdStoresThreeDigits : Prop :=
  ∀ (s : State) (x : RegIdx), ∃ t, exec (.ldB x) s = .next t ∧ t.status = .executed
    ∧ (t.readByte s.i).toNat = (s.getV x).toNat / 100
    ∧ (t.readByte (s.i + 1#12)).toNat = (s.getV x).toNat / 10 % 10
    ∧ (t.readByte (s.i + 2#12)).toNat = (s.getV x).toNat % 10
    ∧ (∀ a : Addr, a ≠ s.i → a ≠ s.i + 1#12 → a ≠ s.i + 2#12 → t.readByte a = s.readByte a)
    ∧ unchangedExcept [.mem] s t

/-- FX55 stores V0..Vx at I, I + 1, …, I + x, reduced modulo 4096, and adds x + 1 to I; every other byte of memory reads as before. -/
def Obligations.BlockStoreWritesV0ToVx : Prop :=
  ∀ (s : State) (x : RegIdx), ∃ t, exec (.storeRegs x) s = .next t ∧ t.status = .executed
    ∧ (∀ k : RegIdx, k ≤ x → t.readByte (s.i + BitVec.ofNat 12 k.val) = s.getV k)
    ∧ (∀ a : Addr, (∀ k : RegIdx, k ≤ x → a ≠ s.i + BitVec.ofNat 12 k.val) → t.readByte a = s.readByte a)
    ∧ t.i.toNat = (s.i.toNat + x.val + 1) % 4096 ∧ unchangedExcept [.mem, .i] s t

/-- FX65 loads V0..Vx from I, I + 1, …, I + x, reduced modulo 4096, and adds x + 1 to I; the registers above Vx keep their values. -/
def Obligations.BlockLoadReadsV0ToVx : Prop :=
  ∀ (s : State) (x : RegIdx), ∃ t, exec (.loadRegs x) s = .next t ∧ t.status = .executed
    ∧ (∀ k : RegIdx, k ≤ x → t.getV k = s.readByte (s.i + BitVec.ofNat 12 k.val))
    ∧ (∀ k : RegIdx, x < k → t.getV k = s.getV k)
    ∧ t.i.toNat = (s.i.toNat + x.val + 1) % 4096 ∧ unchangedExcept [.v, .i] s t

/-- What FX55 stored, FX65 loads back: from the same I and the memory the store left, V0..Vx end as they were, whatever the registers held in between. -/
def Obligations.BlockLoadUndoesBlockStore : Prop :=
  ∀ (s t : State) (x : RegIdx) (v : Vector Byte 16), exec (.storeRegs x) s = .next t →
    ∃ u, exec (.loadRegs x) ((t.setRegs v).setI s.i) = .next u
      ∧ ∀ k : RegIdx, k ≤ x → u.getV k = s.getV k

/-- The word of a well-formed instruction that FX55 stores at PC is what the very next step fetches and runs. -/
def Obligations.StoredInstructionRunsAtTheNextStep : Prop :=
  ∀ (s : State) (x : RegIdx) (i : Instr), i.wf = true → s.i = s.pc → 1 ≤ x.val →
    [s.getV 0, s.getV 1] = encodeBytes i →
    ∃ t, exec (.storeRegs x) s = .next t ∧ step t = exec i (t.setPc (t.pc + 2#12))

/-- Two canonical memories that read alike at every address are the same list. -/
def Obligations.CanonicalMemoriesThatReadAlikeAreEqual : Prop :=
  ∀ m m' : Memory, m.wf = true → m'.wf = true →
    (∀ a : Addr, Memory.read m a.toNat = Memory.read m' a.toNat) → m = m'

/-! ## Display -/

/-- CLS makes every pixel 0 and raises DRAW, whatever the framebuffer held. -/
def Obligations.ClsClearsEveryPixel : Prop :=
  ∀ s : State, ∃ t, exec .cls s = .next t ∧ t.status = .executed
    ∧ (∀ (r : Fin 32) (c : Fin 64), FrameBuffer.pixel t.fb r c = false) ∧ t.draw = true
    ∧ unchangedExcept [.fb, .draw] s t

/-- DRW toggles exactly the pixels a set sprite bit lands on, at the coordinates Vx and Vy held before; VF is 1 if one of them was 1 and 0 otherwise; DRAW is raised. -/
def Obligations.DrwXorsTheSpriteAndReportsCollision : Prop :=
  ∀ (s : State) (x y : RegIdx) (n : Fin 16), ∃ t, exec (.drw x y n) s = .next t ∧ t.status = .executed
    ∧ (∀ (r : Fin 32) (c : Fin 64),
        (spriteCovers s (s.getV x) (s.getV y) n.val r c →
          FrameBuffer.pixel t.fb r c = !FrameBuffer.pixel s.fb r c)
        ∧ (¬ spriteCovers s (s.getV x) (s.getV y) n.val r c →
          FrameBuffer.pixel t.fb r c = FrameBuffer.pixel s.fb r c))
    ∧ ((∃ r c, spriteCovers s (s.getV x) (s.getV y) n.val r c ∧ FrameBuffer.pixel s.fb r c = true) →
        t.getV 15 = 1#8)
    ∧ ((¬ ∃ r c, spriteCovers s (s.getV x) (s.getV y) n.val r c ∧ FrameBuffer.pixel s.fb r c = true) →
        t.getV 15 = 0#8)
    ∧ t.draw = true ∧ regsExcept [15] s t ∧ unchangedExcept [.v, .fb, .draw] s t

/-- Drawing the same sprite twice at the same coordinates, with neither coordinate in VF, gives the framebuffer back, and the second draw collides iff some pixel the sprite lands on was 0 before the first. -/
def Obligations.SecondDrawUndoesTheFirst : Prop :=
  ∀ (s t : State) (x y : RegIdx) (n : Fin 16) (a : Addr), x ≠ 15 → y ≠ 15 →
    exec (.drw x y n) s = .next t →
    ∃ u, exec (.drw x y n) (t.setPc a) = .next u
      ∧ (∀ (r : Fin 32) (c : Fin 64), FrameBuffer.pixel u.fb r c = FrameBuffer.pixel s.fb r c)
      ∧ (u.getV 15 = 1#8 ↔
          ∃ r c, spriteCovers s (s.getV x) (s.getV y) n.val r c ∧ FrameBuffer.pixel s.fb r c = false)

/-- A sprite with a set bit, drawn twice at the same coordinates outside VF, need not collide the second time: 95_test_vectors.md E4 says it does, and 43_display.md R87 gives otherwise where every pixel it lands on was 1 before (log 12). -/
def Obligations.SecondDrawNeedNotCollide : Prop :=
  ∃ s t u : State, exec (.drw 0 1 1) s = .next t ∧ exec (.drw 0 1 1) t = .next u
    ∧ s.readByte s.i ≠ 0#8 ∧ t.getV 15 = 1#8 ∧ u.getV 15 = 0#8

/-! ## Keys and timers -/

/-- SKP and SKNP skip two more bytes exactly when the key in the low nibble of Vx is, or is not, pressed. -/
def Obligations.KeySkips : Prop :=
  ∀ (s : State) (x : RegIdx) (k : Fin 16), k.val = (s.getV x).toNat % 16 →
    (∃ t, exec (.skp x) s = .next t ∧ t.status = .executed
      ∧ t.pc = (if s.key[k.val] = true then s.pc + 2#12 else s.pc) ∧ unchangedExcept [.pc] s t)
    ∧ (∃ t, exec (.sknp x) s = .next t ∧ t.status = .executed
      ∧ t.pc = (if s.key[k.val] = true then s.pc else s.pc + 2#12) ∧ unchangedExcept [.pc] s t)

/-- FX0A puts the least pressed key into Vx; with no key pressed it puts PC back to its own address and blocks. -/
def Obligations.KeyWaitTakesTheLeastKeyOrBlocks : Prop :=
  ∀ (s : State) (x : RegIdx) (a : Addr), s.pc = a + 2#12 →
    (∀ k : Fin 16, s.key[k.val] = true → (∀ j : Fin 16, j < k → s.key[j.val] = false) →
      ∃ t, exec (.ldVxK x) s = .next t ∧ t.status = .executed
        ∧ (t.getV x).toNat = k.val ∧ regsExcept [x] s t ∧ unchangedExcept [.v] s t)
    ∧ ((∀ k : Fin 16, s.key[k.val] = false) →
      ∃ t, exec (.ldVxK x) s = .next t ∧ t.status = .blocked ∧ t.pc = a ∧ unchangedExcept [.pc] s t)

/-- FX07 reads the delay timer into Vx; FX15 sets it from Vx. -/
def Obligations.DelayTimerMoves : Prop :=
  ∀ (s : State) (x : RegIdx),
    (∃ t, exec (.ldVxDt x) s = .next t ∧ t.status = .executed
      ∧ t.getV x = s.dt ∧ regsExcept [x] s t ∧ unchangedExcept [.v] s t)
    ∧ (∃ t, exec (.ldDtVx x) s = .next t ∧ t.status = .executed
      ∧ t.dt = s.getV x ∧ unchangedExcept [.dt] s t)

/-- FX18 sets the sound timer from Vx and reports the tone edge of the change, if the level changes. -/
def Obligations.SoundTimerWriteReportsTheEdge : Prop :=
  ∀ (s : State) (x : RegIdx), ∃ t, exec (.ldStVx x) s = .next t ∧ t.status = .executed
    ∧ t.st = s.getV x
    ∧ t.tone = s.tone ++ (if s.st = 0#8 ∧ t.st ≠ 0#8 then [ToneEdge.start]
        else if s.st ≠ 0#8 ∧ t.st = 0#8 then [ToneEdge.stop] else [])
    ∧ unchangedExcept [.st, .tone] s t

/-! ## Frames -/

/-- The tick decrements each nonzero timer by 1 and reports ToneStop exactly when ST goes from 1 to 0; a frame ends with one tick, after its steps, blocked or not. -/
def Obligations.TickDecrementsNonzeroTimers : Prop :=
  ∀ s : State, (tick s).dt.toNat = s.dt.toNat - 1 ∧ (tick s).st.toNat = s.st.toNat - 1
    ∧ (tick s).tone = s.tone ++ (if s.st = 1#8 then [ToneEdge.stop] else [])
    ∧ unchangedExcept [.dt, .st, .tone] s (tick s)
    ∧ ∀ (ipf : Nat) (u : State), runSteps ipf s = .next u → advanceFrame ipf s = .next (tick u)

/-- A frame runs steps one after another, up to IPF of them, stops them early only at a Blocked status, and then ticks once. -/
def Obligations.FrameRunsStepsThenTicksOnce : Prop :=
  (∀ s : State, runSteps 0 s = .next s)
  ∧ (∀ (n : Nat) (s t : State), step s = .next t →
      runSteps (n + 1) s = if t.status = .blocked then .next t else runSteps n t)
  ∧ ∀ (ipf : Nat) (s : State), ∃ u, runSteps ipf s = .next u ∧ advanceFrame ipf s = .next (tick u)

/-- Ending a frame's steps early at a blocked FX0A gives exactly the state that running all of them gives. -/
def Obligations.EarlyEndOfABlockedFrameIsNotObservable : Prop :=
  ∀ (n : Nat) (s : State), runSteps n s = Host.Core.run Sys2Proof.core n s

/-- A frame never changes the key state. -/
def Obligations.KeysAreConstantInAFrame : Prop :=
  ∀ (ipf : Nat) (s t : State), advanceFrame ipf s = .next t → t.key = s.key

/-- A frame that begins at an FX0A with no key pressed only ticks: PC stays at the FX0A, each nonzero timer loses 1, and ToneStop is reported iff ST was 1. -/
def Obligations.BlockedFrameOnlyTicks : Prop :=
  ∀ (ipf : Nat) (s : State) (x : RegIdx), 1 ≤ ipf → decodeWord (s.fetch16 s.pc) = .ok (.ldVxK x) →
    (∀ k : Fin 16, s.key[k.val] = false) →
    ∃ t, advanceFrame ipf s = .next t ∧ t.dt.toNat = s.dt.toNat - 1 ∧ t.st.toNat = s.st.toNat - 1
      ∧ t.tone = s.tone ++ (if s.st = 1#8 then [ToneEdge.stop] else [])
      ∧ unchangedExcept [.dt, .st, .tone] s t

/-- A jump to itself keeps PC there and changes nothing at every step; over f frames only the ticks are left to see: each timer loses f, down to 0, and ToneStop is reported once iff ST runs out within them. -/
def Obligations.SelfJumpOnlyLetsTheTimersRun : Prop :=
  ∀ (s : State) (h : Addr), haltedAt h s →
    (∃ t, step s = .next t ∧ haltedAt h t ∧ unchangedExcept [] s t)
    ∧ ∀ ipf f : Nat, ∃ t, runFrames ipf f s = .next t ∧ haltedAt h t
        ∧ t.dt.toNat = s.dt.toNat - f ∧ t.st.toNat = s.st.toNat - f
        ∧ t.tone = s.tone ++ (if 1 ≤ s.st.toNat ∧ s.st.toNat ≤ f then [ToneEdge.stop] else [])
        ∧ unchangedExcept [.dt, .st, .tone] s t

/-- A frame only appends to the tone stream and the diagnostic stream, and to the latter at most one event per step. -/
def Obligations.StreamsOnlyGrowInAFrame : Prop :=
  ∀ (ipf : Nat) (s t : State), advanceFrame ipf s = .next t →
    (∃ d, t.diag = s.diag ++ d ∧ d.length ≤ ipf) ∧ ∃ e, t.tone = s.tone ++ e

/-! ## Host operations and reset -/

/-- An image of at most 3584 bytes is copied to 0x200 up and nothing else changes; a larger one is refused with ImageTooLarge and changes nothing. -/
def Obligations.LoadProgramCopiesOrFails : Prop :=
  ∀ (bytes : List Byte) (s : State),
    (bytes.length ≤ 3584 → (loadProgram bytes s).2 = none
      ∧ (∀ (k : Nat) (b : Byte), bytes[k]? = some b →
          (loadProgram bytes s).1.readByte (BitVec.ofNat 12 (0x200 + k)) = b)
      ∧ (∀ a : Addr, (a.toNat < 0x200 ∨ 0x200 + bytes.length ≤ a.toNat) →
          (loadProgram bytes s).1.readByte a = s.readByte a)
      ∧ unchangedExcept [.mem] s (loadProgram bytes s).1)
    ∧ (3584 < bytes.length → loadProgram bytes s = (s, some .imageTooLarge))

/-- setKey writes one key state, or fails with InvalidKey and changes nothing. -/
def Obligations.SetKeyWritesOneKeyOrFails : Prop :=
  ∀ (index : Nat) (pressed : Bool) (s : State),
    (index < 16 → (setKey index pressed s).2 = none
      ∧ (setKey index pressed s).1.key[index]? = some pressed
      ∧ (∀ j : Nat, j ≠ index → (setKey index pressed s).1.key[j]? = s.key[j]?)
      ∧ unchangedExcept [.key] s (setKey index pressed s).1)
    ∧ (16 ≤ index → setKey index pressed s = (s, some .invalidKey))

/-- consumeDrawFlag returns DRAW and clears it, and a second call returns false; frameBuffer returns the grid; neither changes anything else. -/
def Obligations.HostReadsOfTheDisplay : Prop :=
  ∀ s : State, (consumeDrawFlag s).2 = s.draw ∧ (consumeDrawFlag s).1.draw = false
    ∧ (consumeDrawFlag (consumeDrawFlag s).1).2 = false
    ∧ unchangedExcept [.draw] s (consumeDrawFlag s).1
    ∧ (∀ (r : Fin 32) (c : Fin 64), FrameBuffer.pixel (frameBuffer s) r c = FrameBuffer.pixel s.fb r c)
    ∧ ∀ ipf : Nat, runHostOp ipf .frameBuffer s = .next (s, .pixels s.fb)

/-- After reset every item holds the value of 10_state.md R27: the font bytes of R28 at 0x000..0x04F, 0x00 in the rest of memory. -/
def Obligations.ResetHoldsTheStatedValues : Prop :=
  (∀ r : RegIdx, State.reset.getV r = 0x00#8) ∧ State.reset.i = 0x000#12 ∧ State.reset.pc = 0x200#12
  ∧ State.reset.sp.val = 0 ∧ (∀ k : Fin 16, State.reset.stack[k.val] = 0x000#12)
  ∧ State.reset.dt = 0#8 ∧ State.reset.st = 0#8 ∧ (∀ k : Fin 16, State.reset.key[k.val] = false)
  ∧ (∀ (r : Fin 32) (c : Fin 64), FrameBuffer.pixel State.reset.fb r c = false)
  ∧ State.reset.draw = false ∧ State.reset.toneOn = false
  ∧ State.reset.tone = [] ∧ State.reset.diag = []
  ∧ (List.range 16).map (fun d => (List.range 5).map (fun k => (State.reset.readByte (BitVec.ofNat 12 (5 * d + k))).toNat))
    = [[0xF0, 0x90, 0x90, 0x90, 0xF0], [0x20, 0x60, 0x20, 0x20, 0x70], [0xF0, 0x10, 0xF0, 0x80, 0xF0],
       [0xF0, 0x10, 0xF0, 0x10, 0xF0], [0x90, 0x90, 0xF0, 0x10, 0x10], [0xF0, 0x80, 0xF0, 0x10, 0xF0],
       [0xF0, 0x80, 0xF0, 0x90, 0xF0], [0xF0, 0x10, 0x20, 0x40, 0x40], [0xF0, 0x90, 0xF0, 0x90, 0xF0],
       [0xF0, 0x90, 0xF0, 0x10, 0xF0], [0xF0, 0x90, 0xF0, 0x90, 0x90], [0xE0, 0x90, 0xE0, 0x90, 0xE0],
       [0xF0, 0x80, 0x80, 0x80, 0xF0], [0xE0, 0x90, 0x90, 0x90, 0xE0], [0xF0, 0x80, 0xF0, 0x80, 0xF0],
       [0xF0, 0x80, 0xF0, 0x80, 0x80]]
  ∧ ∀ a : Addr, 0x050 ≤ a.toNat → State.reset.readByte a = 0x00#8

/-- The reset operation gives every item its reset value, whatever the state before it, and emits no tone edge and no diagnostic. -/
def Obligations.ResetOperationForgetsTheStateBefore : Prop :=
  ∀ s : State, (∀ r : RegIdx, (hostReset s).getV r = 0x00#8) ∧ (hostReset s).i = 0x000#12
    ∧ (hostReset s).pc = 0x200#12 ∧ (hostReset s).sp.val = 0
    ∧ (∀ k : Fin 16, (hostReset s).stack[k.val] = 0x000#12)
    ∧ (hostReset s).dt = 0#8 ∧ (hostReset s).st = 0#8 ∧ (∀ k : Fin 16, (hostReset s).key[k.val] = false)
    ∧ (∀ (r : Fin 32) (c : Fin 64), FrameBuffer.pixel (hostReset s).fb r c = false)
    ∧ (hostReset s).draw = false ∧ (hostReset s).tone = [] ∧ (hostReset s).diag = []
    ∧ (∀ a : Addr, a.toNat < 0x050 → font[a.toNat]? = some ((hostReset s).readByte a))
    ∧ (∀ a : Addr, 0x050 ≤ a.toNat → (hostReset s).readByte a = 0x00#8)

/-! ## The whole machine -/

/-- Every instruction changes only the items and only the general registers that the spec lets it write: among others no instruction changes a key, only CALL and RET touch SP, only FX33 and FX55 store, only 00E0 and DXYN change the framebuffer or DRAW. -/
def Obligations.InstructionsWriteOnlyWhatTheSpecNames : Prop :=
  ∀ (i : Instr) (s t : State), exec i s = .next t →
    unchangedExcept i.mayWrite s t ∧ regsExcept i.destRegs s t

/-- VF changes only by an instruction that writes it as a flag, that names it as its destination, or by FX65 with x = 0xF. -/
def Obligations.VfIsWrittenOnlyAsFlagOrDestination : Prop :=
  ∀ s t : State, step s = .next t → t.getV 15 ≠ s.getV 15 →
    ∃ i, decodeWord (s.fetch16 s.pc) = .ok i ∧
      ((∃ x y, i ∈ [Instr.addReg x y, .subReg x y, .shr x y, .subn x y, .shl x y])
      ∨ (∃ x y n, i = .drw x y n)
      ∨ (∃ nn y, i ∈ [Instr.ldImm 15 nn, .addImm 15 nn, .ldReg 15 y, .orReg 15 y, .andReg 15 y,
            .xorReg 15 y, .rnd 15 nn, .ldVxDt 15, .ldVxK 15, .loadRegs 15]))

/-- Every step keeps the invariant: memory stays canonical, and the tone stream reports each change of the tone level exactly once. The canonical form is the model's choice (log 5). -/
def Obligations.EveryStepKeepsTheInvariant : Prop :=
  ∀ s t : State, coreInv s → step s = .next t → coreInv t

/-- The invariant holds after reset. Its clause on memory, the canonical form, is the model's choice (log 5). -/
def Obligations.ResetMeetsTheInvariant : Prop :=
  coreInv State.reset

/-- Every host operation, a whole frame among them, keeps the invariant. Its clause on memory, the canonical form, is the model's choice (log 5). -/
def Obligations.EveryHostOperationKeepsTheInvariant : Prop :=
  ∀ (ipf : Nat) (op : HostOp) (s t : State) (r : HostReply), coreInv s →
    runHostOp ipf op s = .next (t, r) → coreInv t

/-- The reset operation takes no draw and does not turn the count of draws back, so the random source goes on where it was: the model's choice (log 3). -/
def Obligations.ResetOperationKeepsTheDrawCount : Prop :=
  ∀ s : State, (hostReset s).draws = s.draws
end

