-- ==== Sys2Proof/Laws/Decode.lean ====
section
/-! SUPPORT. The fields of a packed word, the word of its fields, and the bytes of a word. -/

namespace Sys2Proof

/-! ### A field of a packed word -/

theorem fieldOp_toNat (w : Word) : (fieldOp w).toNat = w.toNat / 4096 := by
  simp [fieldOp, Nat.shiftRight_eq_div_pow]; omega

theorem fieldX_val (w : Word) : (fieldX w).val = w.toNat / 256 % 16 := by
  simp [fieldX, Nat.shiftRight_eq_div_pow]

theorem fieldY_val (w : Word) : (fieldY w).val = w.toNat / 16 % 16 := by
  simp [fieldY, Nat.shiftRight_eq_div_pow]

theorem fieldN_val (w : Word) : (fieldN w).val = w.toNat % 16 := by
  simp [fieldN]

theorem fieldNn_toNat (w : Word) : (fieldNn w).toNat = w.toNat % 256 := by
  simp [fieldNn]

theorem fieldNnn_toNat (w : Word) : (fieldNnn w).toNat = w.toNat % 4096 := by
  simp [fieldNnn]

theorem packNnn_toNat (op : BitVec 4) (nnn : Addr) : (packNnn op nnn).toNat = op.toNat * 4096 + nnn.toNat := by
  have h : nnn.toNat < 2 ^ 12 := nnn.isLt
  simp only [packNnn]
  rw [BitVec.toNat_append, ← Nat.shiftLeft_add_eq_or_of_lt h, Nat.shiftLeft_eq]

theorem packXnn_toNat (op : BitVec 4) (x : RegIdx) (nn : Byte) :
    (packXnn op x nn).toNat = op.toNat * 4096 + x.val * 256 + nn.toNat := by
  have h1 := nn.isLt
  have h2 := x.isLt
  simp only [packXnn, BitVec.toNat_append, BitVec.toNat_ofFin]
  rw [← Nat.shiftLeft_add_eq_or_of_lt h1, ← Nat.shiftLeft_add_eq_or_of_lt (show x.val < 2 ^ 4 from h2)]
  simp only [Nat.shiftLeft_eq]
  omega

theorem packXyn_toNat (op : BitVec 4) (x y : RegIdx) (n : Fin 16) :
    (packXyn op x y n).toNat = op.toNat * 4096 + x.val * 256 + y.val * 16 + n.val := by
  have h1 := n.isLt
  have h2 := x.isLt
  have h3 := y.isLt
  simp only [packXyn, BitVec.toNat_append, BitVec.toNat_ofFin]
  rw [← Nat.shiftLeft_add_eq_or_of_lt (show n.val < 2 ^ 4 from h1),
    ← Nat.shiftLeft_add_eq_or_of_lt (show y.val < 2 ^ 4 from h3),
    ← Nat.shiftLeft_add_eq_or_of_lt (show x.val < 2 ^ 4 from h2)]
  simp only [Nat.shiftLeft_eq]
  omega

@[simp] theorem fieldOp_packNnn (op : BitVec 4) (nnn : Addr) : fieldOp (packNnn op nnn) = op := by
  apply BitVec.eq_of_toNat_eq
  rw [fieldOp_toNat, packNnn_toNat]; omega

@[simp] theorem fieldNnn_packNnn (op : BitVec 4) (nnn : Addr) : fieldNnn (packNnn op nnn) = nnn := by
  apply BitVec.eq_of_toNat_eq
  rw [fieldNnn_toNat, packNnn_toNat]; omega

@[simp] theorem fieldOp_packXnn (op : BitVec 4) (x : RegIdx) (nn : Byte) : fieldOp (packXnn op x nn) = op := by
  apply BitVec.eq_of_toNat_eq
  rw [fieldOp_toNat, packXnn_toNat]; omega

@[simp] theorem fieldX_packXnn (op : BitVec 4) (x : RegIdx) (nn : Byte) : fieldX (packXnn op x nn) = x := by
  apply Fin.ext
  rw [fieldX_val, packXnn_toNat]; omega

@[simp] theorem fieldNn_packXnn (op : BitVec 4) (x : RegIdx) (nn : Byte) : fieldNn (packXnn op x nn) = nn := by
  apply BitVec.eq_of_toNat_eq
  rw [fieldNn_toNat, packXnn_toNat]; omega

@[simp] theorem fieldOp_packXyn (op : BitVec 4) (x y : RegIdx) (n : Fin 16) :
    fieldOp (packXyn op x y n) = op := by
  apply BitVec.eq_of_toNat_eq
  rw [fieldOp_toNat, packXyn_toNat]; omega

@[simp] theorem fieldX_packXyn (op : BitVec 4) (x y : RegIdx) (n : Fin 16) :
    fieldX (packXyn op x y n) = x := by
  apply Fin.ext
  rw [fieldX_val, packXyn_toNat]; omega

@[simp] theorem fieldY_packXyn (op : BitVec 4) (x y : RegIdx) (n : Fin 16) :
    fieldY (packXyn op x y n) = y := by
  apply Fin.ext
  rw [fieldY_val, packXyn_toNat]; omega

@[simp] theorem fieldN_packXyn (op : BitVec 4) (x y : RegIdx) (n : Fin 16) :
    fieldN (packXyn op x y n) = n := by
  apply Fin.ext
  rw [fieldN_val, packXyn_toNat]; omega

/-! ### A word is its packed fields -/

theorem packNnn_fields (w : Word) : packNnn (fieldOp w) (fieldNnn w) = w := by
  apply BitVec.eq_of_toNat_eq
  rw [packNnn_toNat, fieldOp_toNat, fieldNnn_toNat]; omega

theorem packXnn_fields (w : Word) : packXnn (fieldOp w) (fieldX w) (fieldNn w) = w := by
  apply BitVec.eq_of_toNat_eq
  rw [packXnn_toNat, fieldOp_toNat, fieldX_val, fieldNn_toNat]; omega

theorem packXyn_fields (w : Word) : packXyn (fieldOp w) (fieldX w) (fieldY w) (fieldN w) = w := by
  apply BitVec.eq_of_toNat_eq
  rw [packXyn_toNat, fieldOp_toNat, fieldX_val, fieldY_val, fieldN_val]; omega

/-! ### What each mask of the opcode table keeps -/

theorem packNnn_getLsbD (op : BitVec 4) (nnn : Addr) (k : Nat) :
    (packNnn op nnn).getLsbD k = if k < 12 then nnn.getLsbD k else op.getLsbD (k - 12) :=
  BitVec.getLsbD_append

theorem packXnn_getLsbD (op : BitVec 4) (x : RegIdx) (nn : Byte) (k : Nat) :
    (packXnn op x nn).getLsbD k = if k < 8 then nn.getLsbD k
      else if k - 8 < 4 then (BitVec.ofFin x : BitVec 4).getLsbD (k - 8) else op.getLsbD (k - 8 - 4) := by
  have h : (packXnn op x nn).getLsbD k
      = if k < 8 then nn.getLsbD k else (op ++ (BitVec.ofFin x : BitVec 4)).getLsbD (k - 8) :=
    BitVec.getLsbD_append
  rw [h, BitVec.getLsbD_append]

theorem packXyn_getLsbD (op : BitVec 4) (x y : RegIdx) (n : Fin 16) (k : Nat) :
    (packXyn op x y n).getLsbD k = if k < 4 then (BitVec.ofFin n : BitVec 4).getLsbD k
      else if k - 4 < 4 then (BitVec.ofFin y : BitVec 4).getLsbD (k - 4)
      else if k - 4 - 4 < 4 then (BitVec.ofFin x : BitVec 4).getLsbD (k - 4 - 4)
      else op.getLsbD (k - 4 - 4 - 4) := by
  have h : (packXyn op x y n).getLsbD k = if k < 4 then (BitVec.ofFin n : BitVec 4).getLsbD k
      else (op ++ (BitVec.ofFin x : BitVec 4) ++ (BitVec.ofFin y : BitVec 4)).getLsbD (k - 4) :=
    BitVec.getLsbD_append
  rw [h, BitVec.getLsbD_append, BitVec.getLsbD_append]

theorem mask_op (w : Word) : w &&& 0xF000#16 = packNnn (fieldOp w) 0 := by
  apply BitVec.eq_of_getLsbD_eq
  intro k hk
  rw [packNnn_getLsbD]
  interval_cases k <;> simp [fieldOp]

theorem mask_op_n (w : Word) : w &&& 0xF00F#16 = packXyn (fieldOp w) 0 0 (fieldN w) := by
  have hn : (BitVec.ofFin (fieldN w) : BitVec 4) = w.extractLsb' 0 4 := rfl
  apply BitVec.eq_of_getLsbD_eq
  intro k hk
  rw [packXyn_getLsbD, hn]
  interval_cases k <;> simp [fieldOp]

theorem mask_op_nn (w : Word) : w &&& 0xF0FF#16 = packXnn (fieldOp w) 0 (fieldNn w) := by
  apply BitVec.eq_of_getLsbD_eq
  intro k hk
  rw [packXnn_getLsbD]
  interval_cases k <;> simp [fieldOp, fieldNn]

/-! ### Bytes -/

theorem wordOfBytes_toNat (hi lo : Byte) : (wordOfBytes hi lo).toNat = hi.toNat * 256 + lo.toNat := by
  have h : lo.toNat < 2 ^ 8 := lo.isLt
  simp only [wordOfBytes]
  rw [BitVec.toNat_append, ← Nat.shiftLeft_add_eq_or_of_lt h, Nat.shiftLeft_eq]

@[simp] theorem wordOfBytes_bytesOfWord (w : Word) : wordOfBytes (bytesOfWord w).1 (bytesOfWord w).2 = w := by
  apply BitVec.eq_of_toNat_eq
  rw [wordOfBytes_toNat]
  simp [bytesOfWord, Nat.shiftRight_eq_div_pow]
  omega

/-- Decoding bytes is decoding their word. -/
theorem decode_bytes (w : Word) (rest : List Byte) :
    decode ((bytesOfWord w).1 :: (bytesOfWord w).2 :: rest)
      = (decodeWord w).map (fun i => (i, rest)) := by
  simp only [decode, wordOfBytes_bytesOfWord]
  cases decodeWord w <;> rfl

end Sys2Proof
end

