-- ==== Sys2Proof/Laws/Memory.lean ====
section
/-! SUPPORT. The laws of memory: read after write, and the canonical form that every operation keeps. -/

namespace Sys2Proof.Machine

theorem Memory.read_erase_same (m : Memory) (a : Nat) : Memory.read (Memory.erase m a) a = unlistedByte a := by
  induction m with
  | nil => rfl
  | cons cell rest ih =>
    obtain ⟨k, c⟩ := cell
    by_cases h : k = a <;> simp_all [Memory.erase, Memory.read]

theorem Memory.read_erase_ne (m : Memory) {a q : Nat} (h : q ≠ a) :
    Memory.read (Memory.erase m a) q = Memory.read m q := by
  induction m with
  | nil => rfl
  | cons cell rest ih =>
    obtain ⟨k, c⟩ := cell
    by_cases hk : k = a
    · have : a ≠ q := fun e => h e.symm
      simp_all [Memory.erase, Memory.read]
    · simp_all [Memory.erase, Memory.read]

theorem Memory.read_insert_ne (m : Memory) {a q : Nat} (b : Byte) (h : q ≠ a) :
    Memory.read (Memory.insert m a b) q = Memory.read m q := by
  have h' : a ≠ q := fun e => h e.symm
  induction m with
  | nil => simp [Memory.insert, Memory.read, h']
  | cons cell rest ih =>
    obtain ⟨k, c⟩ := cell
    by_cases hk : a < k <;> simp [Memory.insert, Memory.read, hk, h', ih]

theorem Memory.read_insert_same (m : Memory) (a : Nat) (b : Byte) (h : ∀ cell ∈ m, cell.1 ≠ a) :
    Memory.read (Memory.insert m a b) a = b := by
  induction m with
  | nil => simp [Memory.insert, Memory.read]
  | cons cell rest ih =>
    obtain ⟨k, c⟩ := cell
    by_cases hk : a < k
    · simp [Memory.insert, Memory.read, hk]
    · have hne : k ≠ a := h (k, c) (by simp)
      simp [Memory.insert, Memory.read, hk, hne, ih (fun cell hc => h cell (by simp [hc]))]

/-- A byte written is read back (20_memory.md R35, R40). -/
@[simp] theorem Memory.read_write_same (m : Memory) (a : Nat) (b : Byte) :
    Memory.read (Memory.write m a b) a = b := by
  unfold Memory.write
  split
  · next h => rw [Memory.read_erase_same, h]
  · exact Memory.read_insert_same _ _ _ (by simp [Memory.erase])

/-- A write leaves every other address alone. -/
theorem Memory.read_write_ne (m : Memory) {a q : Nat} (b : Byte) (h : q ≠ a) :
    Memory.read (Memory.write m a b) q = Memory.read m q := by
  unfold Memory.write
  split
  · exact Memory.read_erase_ne m h
  · rw [Memory.read_insert_ne _ _ h, Memory.read_erase_ne m h]

/-- What a read sees after a write, in one equation. -/
theorem Memory.read_write (m : Memory) (a q : Nat) (b : Byte) :
    Memory.read (Memory.write m a b) q = if q = a then b else Memory.read m q := by
  split
  · next h => rw [h, Memory.read_write_same]
  · next h => exact Memory.read_write_ne m b h

/-! ### The canonical form -/

theorem Memory.wfFrom_mono {lo lo' : Nat} {m : Memory} (h : Memory.wfFrom lo m = true) (hl : lo' ≤ lo) :
    Memory.wfFrom lo' m = true := by
  cases m with
  | nil => rfl
  | cons cell rest =>
    obtain ⟨k, c⟩ := cell
    simp only [Memory.wfFrom, Bool.and_eq_true, decide_eq_true_eq] at h ⊢
    exact ⟨⟨⟨by omega, h.1.1.2⟩, h.1.2⟩, h.2⟩

theorem Memory.wfFrom_erase {lo : Nat} {m : Memory} (a : Nat) (h : Memory.wfFrom lo m = true) :
    Memory.wfFrom lo (Memory.erase m a) = true := by
  induction m generalizing lo with
  | nil => rfl
  | cons cell rest ih =>
    obtain ⟨k, c⟩ := cell
    simp only [Memory.wfFrom, Bool.and_eq_true, decide_eq_true_eq] at h
    by_cases hk : k = a
    · have := ih h.2
      simp only [Memory.erase] at this ⊢
      simp only [hk, List.filter, bne_self_eq_false]
      exact Memory.wfFrom_mono this (by omega)
    · have := ih h.2
      simp only [Memory.erase] at this ⊢
      simp [hk, Memory.wfFrom, h.1.1.1, h.1.1.2, h.1.2, this]

theorem Memory.wfFrom_insert {lo a : Nat} {m : Memory} {b : Byte} (h : Memory.wfFrom lo m = true)
    (hlo : lo ≤ a) (ha : a < 4096) (hb : b ≠ unlistedByte a) (hm : ∀ cell ∈ m, cell.1 ≠ a) :
    Memory.wfFrom lo (Memory.insert m a b) = true := by
  induction m generalizing lo with
  | nil => simp [Memory.insert, Memory.wfFrom, hlo, ha, hb]
  | cons cell rest ih =>
    obtain ⟨k, c⟩ := cell
    simp only [Memory.wfFrom, Bool.and_eq_true, decide_eq_true_eq] at h
    have hne : k ≠ a := hm (k, c) (by simp)
    by_cases hk : a < k
    · simp [Memory.insert, hk, Memory.wfFrom, hlo, ha, hb, h.1.1.2, h.1.2, h.2]
    · have := ih h.2 (by omega) (fun cell hc => hm cell (by simp [hc]))
      simp [Memory.insert, hk, Memory.wfFrom, h.1.1.1, h.1.1.2, h.1.2, this]

/-- Every store inside the address space keeps the canonical form. -/
theorem Memory.wf_write {m : Memory} {a : Nat} (b : Byte) (h : m.wf = true) (ha : a < 4096) :
    (Memory.write m a b).wf = true := by
  unfold Memory.write Memory.wf at *
  split
  · exact Memory.wfFrom_erase a h
  · next hb => exact Memory.wfFrom_insert (Memory.wfFrom_erase a h) (by omega) ha hb (by simp [Memory.erase])

/-- The memory after reset is canonical. -/
theorem Memory.wf_reset : State.reset.mem.wf = true := rfl

end Sys2Proof.Machine
end

