-- ==== Sys2Proof/Laws/State.lean ====
section
/-! SUPPORT. One lemma per field per update, each true by rfl: what every named update of the state leaves and sets. -/

namespace Sys2Proof.Machine

variable (s : State)

/-! ### setV -/

@[simp] theorem State.setV_v (r : RegIdx) (b : Byte) : (s.setV r b).v = s.v.set r.val b := rfl
@[simp] theorem State.setV_i (r : RegIdx) (b : Byte) : (s.setV r b).i = s.i := rfl
@[simp] theorem State.setV_pc (r : RegIdx) (b : Byte) : (s.setV r b).pc = s.pc := rfl
@[simp] theorem State.setV_stack (r : RegIdx) (b : Byte) : (s.setV r b).stack = s.stack := rfl
@[simp] theorem State.setV_sp (r : RegIdx) (b : Byte) : (s.setV r b).sp = s.sp := rfl
@[simp] theorem State.setV_dt (r : RegIdx) (b : Byte) : (s.setV r b).dt = s.dt := rfl
@[simp] theorem State.setV_st (r : RegIdx) (b : Byte) : (s.setV r b).st = s.st := rfl
@[simp] theorem State.setV_key (r : RegIdx) (b : Byte) : (s.setV r b).key = s.key := rfl
@[simp] theorem State.setV_fb (r : RegIdx) (b : Byte) : (s.setV r b).fb = s.fb := rfl
@[simp] theorem State.setV_draw (r : RegIdx) (b : Byte) : (s.setV r b).draw = s.draw := rfl
@[simp] theorem State.setV_mem (r : RegIdx) (b : Byte) : (s.setV r b).mem = s.mem := rfl
@[simp] theorem State.setV_tone (r : RegIdx) (b : Byte) : (s.setV r b).tone = s.tone := rfl
@[simp] theorem State.setV_diag (r : RegIdx) (b : Byte) : (s.setV r b).diag = s.diag := rfl
@[simp] theorem State.setV_draws (r : RegIdx) (b : Byte) : (s.setV r b).draws = s.draws := rfl
@[simp] theorem State.setV_status (r : RegIdx) (b : Byte) : (s.setV r b).status = s.status := rfl
@[simp] theorem State.readByte_setV (r : RegIdx) (b : Byte) (q : Addr) : (s.setV r b).readByte q = s.readByte q := rfl
@[simp] theorem State.pressed_setV (r : RegIdx) (b : Byte) (q : KeyIdx) : (s.setV r b).pressed q = s.pressed q := rfl

/-! ### setRegs -/

@[simp] theorem State.setRegs_v (w : Vector Byte 16) : (s.setRegs w).v = w := rfl
@[simp] theorem State.setRegs_i (w : Vector Byte 16) : (s.setRegs w).i = s.i := rfl
@[simp] theorem State.setRegs_pc (w : Vector Byte 16) : (s.setRegs w).pc = s.pc := rfl
@[simp] theorem State.setRegs_stack (w : Vector Byte 16) : (s.setRegs w).stack = s.stack := rfl
@[simp] theorem State.setRegs_sp (w : Vector Byte 16) : (s.setRegs w).sp = s.sp := rfl
@[simp] theorem State.setRegs_dt (w : Vector Byte 16) : (s.setRegs w).dt = s.dt := rfl
@[simp] theorem State.setRegs_st (w : Vector Byte 16) : (s.setRegs w).st = s.st := rfl
@[simp] theorem State.setRegs_key (w : Vector Byte 16) : (s.setRegs w).key = s.key := rfl
@[simp] theorem State.setRegs_fb (w : Vector Byte 16) : (s.setRegs w).fb = s.fb := rfl
@[simp] theorem State.setRegs_draw (w : Vector Byte 16) : (s.setRegs w).draw = s.draw := rfl
@[simp] theorem State.setRegs_mem (w : Vector Byte 16) : (s.setRegs w).mem = s.mem := rfl
@[simp] theorem State.setRegs_tone (w : Vector Byte 16) : (s.setRegs w).tone = s.tone := rfl
@[simp] theorem State.setRegs_diag (w : Vector Byte 16) : (s.setRegs w).diag = s.diag := rfl
@[simp] theorem State.setRegs_draws (w : Vector Byte 16) : (s.setRegs w).draws = s.draws := rfl
@[simp] theorem State.setRegs_status (w : Vector Byte 16) : (s.setRegs w).status = s.status := rfl
@[simp] theorem State.readByte_setRegs (w : Vector Byte 16) (q : Addr) : (s.setRegs w).readByte q = s.readByte q := rfl
@[simp] theorem State.pressed_setRegs (w : Vector Byte 16) (q : KeyIdx) : (s.setRegs w).pressed q = s.pressed q := rfl

/-! ### setI -/

@[simp] theorem State.setI_v (a : Addr) : (s.setI a).v = s.v := rfl
@[simp] theorem State.setI_i (a : Addr) : (s.setI a).i = a := rfl
@[simp] theorem State.setI_pc (a : Addr) : (s.setI a).pc = s.pc := rfl
@[simp] theorem State.setI_stack (a : Addr) : (s.setI a).stack = s.stack := rfl
@[simp] theorem State.setI_sp (a : Addr) : (s.setI a).sp = s.sp := rfl
@[simp] theorem State.setI_dt (a : Addr) : (s.setI a).dt = s.dt := rfl
@[simp] theorem State.setI_st (a : Addr) : (s.setI a).st = s.st := rfl
@[simp] theorem State.setI_key (a : Addr) : (s.setI a).key = s.key := rfl
@[simp] theorem State.setI_fb (a : Addr) : (s.setI a).fb = s.fb := rfl
@[simp] theorem State.setI_draw (a : Addr) : (s.setI a).draw = s.draw := rfl
@[simp] theorem State.setI_mem (a : Addr) : (s.setI a).mem = s.mem := rfl
@[simp] theorem State.setI_tone (a : Addr) : (s.setI a).tone = s.tone := rfl
@[simp] theorem State.setI_diag (a : Addr) : (s.setI a).diag = s.diag := rfl
@[simp] theorem State.setI_draws (a : Addr) : (s.setI a).draws = s.draws := rfl
@[simp] theorem State.setI_status (a : Addr) : (s.setI a).status = s.status := rfl
@[simp] theorem State.getV_setI (a : Addr) (q : RegIdx) : (s.setI a).getV q = s.getV q := rfl
@[simp] theorem State.readByte_setI (a : Addr) (q : Addr) : (s.setI a).readByte q = s.readByte q := rfl
@[simp] theorem State.pressed_setI (a : Addr) (q : KeyIdx) : (s.setI a).pressed q = s.pressed q := rfl

/-! ### setPc -/

@[simp] theorem State.setPc_v (a : Addr) : (s.setPc a).v = s.v := rfl
@[simp] theorem State.setPc_i (a : Addr) : (s.setPc a).i = s.i := rfl
@[simp] theorem State.setPc_pc (a : Addr) : (s.setPc a).pc = a := rfl
@[simp] theorem State.setPc_stack (a : Addr) : (s.setPc a).stack = s.stack := rfl
@[simp] theorem State.setPc_sp (a : Addr) : (s.setPc a).sp = s.sp := rfl
@[simp] theorem State.setPc_dt (a : Addr) : (s.setPc a).dt = s.dt := rfl
@[simp] theorem State.setPc_st (a : Addr) : (s.setPc a).st = s.st := rfl
@[simp] theorem State.setPc_key (a : Addr) : (s.setPc a).key = s.key := rfl
@[simp] theorem State.setPc_fb (a : Addr) : (s.setPc a).fb = s.fb := rfl
@[simp] theorem State.setPc_draw (a : Addr) : (s.setPc a).draw = s.draw := rfl
@[simp] theorem State.setPc_mem (a : Addr) : (s.setPc a).mem = s.mem := rfl
@[simp] theorem State.setPc_tone (a : Addr) : (s.setPc a).tone = s.tone := rfl
@[simp] theorem State.setPc_diag (a : Addr) : (s.setPc a).diag = s.diag := rfl
@[simp] theorem State.setPc_draws (a : Addr) : (s.setPc a).draws = s.draws := rfl
@[simp] theorem State.setPc_status (a : Addr) : (s.setPc a).status = s.status := rfl
@[simp] theorem State.getV_setPc (a : Addr) (q : RegIdx) : (s.setPc a).getV q = s.getV q := rfl
@[simp] theorem State.readByte_setPc (a : Addr) (q : Addr) : (s.setPc a).readByte q = s.readByte q := rfl
@[simp] theorem State.pressed_setPc (a : Addr) (q : KeyIdx) : (s.setPc a).pressed q = s.pressed q := rfl

/-! ### setSlot -/

@[simp] theorem State.setSlot_v (k : Fin 16) (a : Addr) : (s.setSlot k a).v = s.v := rfl
@[simp] theorem State.setSlot_i (k : Fin 16) (a : Addr) : (s.setSlot k a).i = s.i := rfl
@[simp] theorem State.setSlot_pc (k : Fin 16) (a : Addr) : (s.setSlot k a).pc = s.pc := rfl
@[simp] theorem State.setSlot_stack (k : Fin 16) (a : Addr) : (s.setSlot k a).stack = s.stack.set k.val a := rfl
@[simp] theorem State.setSlot_sp (k : Fin 16) (a : Addr) : (s.setSlot k a).sp = s.sp := rfl
@[simp] theorem State.setSlot_dt (k : Fin 16) (a : Addr) : (s.setSlot k a).dt = s.dt := rfl
@[simp] theorem State.setSlot_st (k : Fin 16) (a : Addr) : (s.setSlot k a).st = s.st := rfl
@[simp] theorem State.setSlot_key (k : Fin 16) (a : Addr) : (s.setSlot k a).key = s.key := rfl
@[simp] theorem State.setSlot_fb (k : Fin 16) (a : Addr) : (s.setSlot k a).fb = s.fb := rfl
@[simp] theorem State.setSlot_draw (k : Fin 16) (a : Addr) : (s.setSlot k a).draw = s.draw := rfl
@[simp] theorem State.setSlot_mem (k : Fin 16) (a : Addr) : (s.setSlot k a).mem = s.mem := rfl
@[simp] theorem State.setSlot_tone (k : Fin 16) (a : Addr) : (s.setSlot k a).tone = s.tone := rfl
@[simp] theorem State.setSlot_diag (k : Fin 16) (a : Addr) : (s.setSlot k a).diag = s.diag := rfl
@[simp] theorem State.setSlot_draws (k : Fin 16) (a : Addr) : (s.setSlot k a).draws = s.draws := rfl
@[simp] theorem State.setSlot_status (k : Fin 16) (a : Addr) : (s.setSlot k a).status = s.status := rfl
@[simp] theorem State.getV_setSlot (k : Fin 16) (a : Addr) (q : RegIdx) : (s.setSlot k a).getV q = s.getV q := rfl
@[simp] theorem State.readByte_setSlot (k : Fin 16) (a : Addr) (q : Addr) : (s.setSlot k a).readByte q = s.readByte q := rfl
@[simp] theorem State.pressed_setSlot (k : Fin 16) (a : Addr) (q : KeyIdx) : (s.setSlot k a).pressed q = s.pressed q := rfl

/-! ### setSp -/

@[simp] theorem State.setSp_v (n : Fin 17) : (s.setSp n).v = s.v := rfl
@[simp] theorem State.setSp_i (n : Fin 17) : (s.setSp n).i = s.i := rfl
@[simp] theorem State.setSp_pc (n : Fin 17) : (s.setSp n).pc = s.pc := rfl
@[simp] theorem State.setSp_stack (n : Fin 17) : (s.setSp n).stack = s.stack := rfl
@[simp] theorem State.setSp_sp (n : Fin 17) : (s.setSp n).sp = n := rfl
@[simp] theorem State.setSp_dt (n : Fin 17) : (s.setSp n).dt = s.dt := rfl
@[simp] theorem State.setSp_st (n : Fin 17) : (s.setSp n).st = s.st := rfl
@[simp] theorem State.setSp_key (n : Fin 17) : (s.setSp n).key = s.key := rfl
@[simp] theorem State.setSp_fb (n : Fin 17) : (s.setSp n).fb = s.fb := rfl
@[simp] theorem State.setSp_draw (n : Fin 17) : (s.setSp n).draw = s.draw := rfl
@[simp] theorem State.setSp_mem (n : Fin 17) : (s.setSp n).mem = s.mem := rfl
@[simp] theorem State.setSp_tone (n : Fin 17) : (s.setSp n).tone = s.tone := rfl
@[simp] theorem State.setSp_diag (n : Fin 17) : (s.setSp n).diag = s.diag := rfl
@[simp] theorem State.setSp_draws (n : Fin 17) : (s.setSp n).draws = s.draws := rfl
@[simp] theorem State.setSp_status (n : Fin 17) : (s.setSp n).status = s.status := rfl
@[simp] theorem State.getV_setSp (n : Fin 17) (q : RegIdx) : (s.setSp n).getV q = s.getV q := rfl
@[simp] theorem State.readByte_setSp (n : Fin 17) (q : Addr) : (s.setSp n).readByte q = s.readByte q := rfl
@[simp] theorem State.pressed_setSp (n : Fin 17) (q : KeyIdx) : (s.setSp n).pressed q = s.pressed q := rfl

/-! ### setDt -/

@[simp] theorem State.setDt_v (b : Byte) : (s.setDt b).v = s.v := rfl
@[simp] theorem State.setDt_i (b : Byte) : (s.setDt b).i = s.i := rfl
@[simp] theorem State.setDt_pc (b : Byte) : (s.setDt b).pc = s.pc := rfl
@[simp] theorem State.setDt_stack (b : Byte) : (s.setDt b).stack = s.stack := rfl
@[simp] theorem State.setDt_sp (b : Byte) : (s.setDt b).sp = s.sp := rfl
@[simp] theorem State.setDt_dt (b : Byte) : (s.setDt b).dt = b := rfl
@[simp] theorem State.setDt_st (b : Byte) : (s.setDt b).st = s.st := rfl
@[simp] theorem State.setDt_key (b : Byte) : (s.setDt b).key = s.key := rfl
@[simp] theorem State.setDt_fb (b : Byte) : (s.setDt b).fb = s.fb := rfl
@[simp] theorem State.setDt_draw (b : Byte) : (s.setDt b).draw = s.draw := rfl
@[simp] theorem State.setDt_mem (b : Byte) : (s.setDt b).mem = s.mem := rfl
@[simp] theorem State.setDt_tone (b : Byte) : (s.setDt b).tone = s.tone := rfl
@[simp] theorem State.setDt_diag (b : Byte) : (s.setDt b).diag = s.diag := rfl
@[simp] theorem State.setDt_draws (b : Byte) : (s.setDt b).draws = s.draws := rfl
@[simp] theorem State.setDt_status (b : Byte) : (s.setDt b).status = s.status := rfl
@[simp] theorem State.getV_setDt (b : Byte) (q : RegIdx) : (s.setDt b).getV q = s.getV q := rfl
@[simp] theorem State.readByte_setDt (b : Byte) (q : Addr) : (s.setDt b).readByte q = s.readByte q := rfl
@[simp] theorem State.pressed_setDt (b : Byte) (q : KeyIdx) : (s.setDt b).pressed q = s.pressed q := rfl

/-! ### setSt -/

@[simp] theorem State.setSt_v (b : Byte) : (s.setSt b).v = s.v := rfl
@[simp] theorem State.setSt_i (b : Byte) : (s.setSt b).i = s.i := rfl
@[simp] theorem State.setSt_pc (b : Byte) : (s.setSt b).pc = s.pc := rfl
@[simp] theorem State.setSt_stack (b : Byte) : (s.setSt b).stack = s.stack := rfl
@[simp] theorem State.setSt_sp (b : Byte) : (s.setSt b).sp = s.sp := rfl
@[simp] theorem State.setSt_dt (b : Byte) : (s.setSt b).dt = s.dt := rfl
@[simp] theorem State.setSt_st (b : Byte) : (s.setSt b).st = b := rfl
@[simp] theorem State.setSt_key (b : Byte) : (s.setSt b).key = s.key := rfl
@[simp] theorem State.setSt_fb (b : Byte) : (s.setSt b).fb = s.fb := rfl
@[simp] theorem State.setSt_draw (b : Byte) : (s.setSt b).draw = s.draw := rfl
@[simp] theorem State.setSt_mem (b : Byte) : (s.setSt b).mem = s.mem := rfl
@[simp] theorem State.setSt_tone (b : Byte) : (s.setSt b).tone = s.tone := rfl
@[simp] theorem State.setSt_diag (b : Byte) : (s.setSt b).diag = s.diag := rfl
@[simp] theorem State.setSt_draws (b : Byte) : (s.setSt b).draws = s.draws := rfl
@[simp] theorem State.setSt_status (b : Byte) : (s.setSt b).status = s.status := rfl
@[simp] theorem State.getV_setSt (b : Byte) (q : RegIdx) : (s.setSt b).getV q = s.getV q := rfl
@[simp] theorem State.readByte_setSt (b : Byte) (q : Addr) : (s.setSt b).readByte q = s.readByte q := rfl
@[simp] theorem State.pressed_setSt (b : Byte) (q : KeyIdx) : (s.setSt b).pressed q = s.pressed q := rfl

/-! ### setKeyBit -/

@[simp] theorem State.setKeyBit_v (k : KeyIdx) (p : Bool) : (s.setKeyBit k p).v = s.v := rfl
@[simp] theorem State.setKeyBit_i (k : KeyIdx) (p : Bool) : (s.setKeyBit k p).i = s.i := rfl
@[simp] theorem State.setKeyBit_pc (k : KeyIdx) (p : Bool) : (s.setKeyBit k p).pc = s.pc := rfl
@[simp] theorem State.setKeyBit_stack (k : KeyIdx) (p : Bool) : (s.setKeyBit k p).stack = s.stack := rfl
@[simp] theorem State.setKeyBit_sp (k : KeyIdx) (p : Bool) : (s.setKeyBit k p).sp = s.sp := rfl
@[simp] theorem State.setKeyBit_dt (k : KeyIdx) (p : Bool) : (s.setKeyBit k p).dt = s.dt := rfl
@[simp] theorem State.setKeyBit_st (k : KeyIdx) (p : Bool) : (s.setKeyBit k p).st = s.st := rfl
@[simp] theorem State.setKeyBit_key (k : KeyIdx) (p : Bool) : (s.setKeyBit k p).key = s.key.set k.val p := rfl
@[simp] theorem State.setKeyBit_fb (k : KeyIdx) (p : Bool) : (s.setKeyBit k p).fb = s.fb := rfl
@[simp] theorem State.setKeyBit_draw (k : KeyIdx) (p : Bool) : (s.setKeyBit k p).draw = s.draw := rfl
@[simp] theorem State.setKeyBit_mem (k : KeyIdx) (p : Bool) : (s.setKeyBit k p).mem = s.mem := rfl
@[simp] theorem State.setKeyBit_tone (k : KeyIdx) (p : Bool) : (s.setKeyBit k p).tone = s.tone := rfl
@[simp] theorem State.setKeyBit_diag (k : KeyIdx) (p : Bool) : (s.setKeyBit k p).diag = s.diag := rfl
@[simp] theorem State.setKeyBit_draws (k : KeyIdx) (p : Bool) : (s.setKeyBit k p).draws = s.draws := rfl
@[simp] theorem State.setKeyBit_status (k : KeyIdx) (p : Bool) : (s.setKeyBit k p).status = s.status := rfl
@[simp] theorem State.getV_setKeyBit (k : KeyIdx) (p : Bool) (q : RegIdx) : (s.setKeyBit k p).getV q = s.getV q := rfl
@[simp] theorem State.readByte_setKeyBit (k : KeyIdx) (p : Bool) (q : Addr) : (s.setKeyBit k p).readByte q = s.readByte q := rfl

/-! ### setFb -/

@[simp] theorem State.setFb_v (g : FrameBuffer) : (s.setFb g).v = s.v := rfl
@[simp] theorem State.setFb_i (g : FrameBuffer) : (s.setFb g).i = s.i := rfl
@[simp] theorem State.setFb_pc (g : FrameBuffer) : (s.setFb g).pc = s.pc := rfl
@[simp] theorem State.setFb_stack (g : FrameBuffer) : (s.setFb g).stack = s.stack := rfl
@[simp] theorem State.setFb_sp (g : FrameBuffer) : (s.setFb g).sp = s.sp := rfl
@[simp] theorem State.setFb_dt (g : FrameBuffer) : (s.setFb g).dt = s.dt := rfl
@[simp] theorem State.setFb_st (g : FrameBuffer) : (s.setFb g).st = s.st := rfl
@[simp] theorem State.setFb_key (g : FrameBuffer) : (s.setFb g).key = s.key := rfl
@[simp] theorem State.setFb_fb (g : FrameBuffer) : (s.setFb g).fb = g := rfl
@[simp] theorem State.setFb_draw (g : FrameBuffer) : (s.setFb g).draw = s.draw := rfl
@[simp] theorem State.setFb_mem (g : FrameBuffer) : (s.setFb g).mem = s.mem := rfl
@[simp] theorem State.setFb_tone (g : FrameBuffer) : (s.setFb g).tone = s.tone := rfl
@[simp] theorem State.setFb_diag (g : FrameBuffer) : (s.setFb g).diag = s.diag := rfl
@[simp] theorem State.setFb_draws (g : FrameBuffer) : (s.setFb g).draws = s.draws := rfl
@[simp] theorem State.setFb_status (g : FrameBuffer) : (s.setFb g).status = s.status := rfl
@[simp] theorem State.getV_setFb (g : FrameBuffer) (q : RegIdx) : (s.setFb g).getV q = s.getV q := rfl
@[simp] theorem State.readByte_setFb (g : FrameBuffer) (q : Addr) : (s.setFb g).readByte q = s.readByte q := rfl
@[simp] theorem State.pressed_setFb (g : FrameBuffer) (q : KeyIdx) : (s.setFb g).pressed q = s.pressed q := rfl

/-! ### setDraw -/

@[simp] theorem State.setDraw_v (d : Bool) : (s.setDraw d).v = s.v := rfl
@[simp] theorem State.setDraw_i (d : Bool) : (s.setDraw d).i = s.i := rfl
@[simp] theorem State.setDraw_pc (d : Bool) : (s.setDraw d).pc = s.pc := rfl
@[simp] theorem State.setDraw_stack (d : Bool) : (s.setDraw d).stack = s.stack := rfl
@[simp] theorem State.setDraw_sp (d : Bool) : (s.setDraw d).sp = s.sp := rfl
@[simp] theorem State.setDraw_dt (d : Bool) : (s.setDraw d).dt = s.dt := rfl
@[simp] theorem State.setDraw_st (d : Bool) : (s.setDraw d).st = s.st := rfl
@[simp] theorem State.setDraw_key (d : Bool) : (s.setDraw d).key = s.key := rfl
@[simp] theorem State.setDraw_fb (d : Bool) : (s.setDraw d).fb = s.fb := rfl
@[simp] theorem State.setDraw_draw (d : Bool) : (s.setDraw d).draw = d := rfl
@[simp] theorem State.setDraw_mem (d : Bool) : (s.setDraw d).mem = s.mem := rfl
@[simp] theorem State.setDraw_tone (d : Bool) : (s.setDraw d).tone = s.tone := rfl
@[simp] theorem State.setDraw_diag (d : Bool) : (s.setDraw d).diag = s.diag := rfl
@[simp] theorem State.setDraw_draws (d : Bool) : (s.setDraw d).draws = s.draws := rfl
@[simp] theorem State.setDraw_status (d : Bool) : (s.setDraw d).status = s.status := rfl
@[simp] theorem State.getV_setDraw (d : Bool) (q : RegIdx) : (s.setDraw d).getV q = s.getV q := rfl
@[simp] theorem State.readByte_setDraw (d : Bool) (q : Addr) : (s.setDraw d).readByte q = s.readByte q := rfl
@[simp] theorem State.pressed_setDraw (d : Bool) (q : KeyIdx) : (s.setDraw d).pressed q = s.pressed q := rfl

/-! ### setMem -/

@[simp] theorem State.setMem_v (m : Memory) : (s.setMem m).v = s.v := rfl
@[simp] theorem State.setMem_i (m : Memory) : (s.setMem m).i = s.i := rfl
@[simp] theorem State.setMem_pc (m : Memory) : (s.setMem m).pc = s.pc := rfl
@[simp] theorem State.setMem_stack (m : Memory) : (s.setMem m).stack = s.stack := rfl
@[simp] theorem State.setMem_sp (m : Memory) : (s.setMem m).sp = s.sp := rfl
@[simp] theorem State.setMem_dt (m : Memory) : (s.setMem m).dt = s.dt := rfl
@[simp] theorem State.setMem_st (m : Memory) : (s.setMem m).st = s.st := rfl
@[simp] theorem State.setMem_key (m : Memory) : (s.setMem m).key = s.key := rfl
@[simp] theorem State.setMem_fb (m : Memory) : (s.setMem m).fb = s.fb := rfl
@[simp] theorem State.setMem_draw (m : Memory) : (s.setMem m).draw = s.draw := rfl
@[simp] theorem State.setMem_mem (m : Memory) : (s.setMem m).mem = m := rfl
@[simp] theorem State.setMem_tone (m : Memory) : (s.setMem m).tone = s.tone := rfl
@[simp] theorem State.setMem_diag (m : Memory) : (s.setMem m).diag = s.diag := rfl
@[simp] theorem State.setMem_draws (m : Memory) : (s.setMem m).draws = s.draws := rfl
@[simp] theorem State.setMem_status (m : Memory) : (s.setMem m).status = s.status := rfl
@[simp] theorem State.getV_setMem (m : Memory) (q : RegIdx) : (s.setMem m).getV q = s.getV q := rfl
@[simp] theorem State.pressed_setMem (m : Memory) (q : KeyIdx) : (s.setMem m).pressed q = s.pressed q := rfl

/-! ### emitTone -/

@[simp] theorem State.emitTone_v (e : ToneEdge) : (s.emitTone e).v = s.v := rfl
@[simp] theorem State.emitTone_i (e : ToneEdge) : (s.emitTone e).i = s.i := rfl
@[simp] theorem State.emitTone_pc (e : ToneEdge) : (s.emitTone e).pc = s.pc := rfl
@[simp] theorem State.emitTone_stack (e : ToneEdge) : (s.emitTone e).stack = s.stack := rfl
@[simp] theorem State.emitTone_sp (e : ToneEdge) : (s.emitTone e).sp = s.sp := rfl
@[simp] theorem State.emitTone_dt (e : ToneEdge) : (s.emitTone e).dt = s.dt := rfl
@[simp] theorem State.emitTone_st (e : ToneEdge) : (s.emitTone e).st = s.st := rfl
@[simp] theorem State.emitTone_key (e : ToneEdge) : (s.emitTone e).key = s.key := rfl
@[simp] theorem State.emitTone_fb (e : ToneEdge) : (s.emitTone e).fb = s.fb := rfl
@[simp] theorem State.emitTone_draw (e : ToneEdge) : (s.emitTone e).draw = s.draw := rfl
@[simp] theorem State.emitTone_mem (e : ToneEdge) : (s.emitTone e).mem = s.mem := rfl
@[simp] theorem State.emitTone_tone (e : ToneEdge) : (s.emitTone e).tone = s.tone ++ [e] := rfl
@[simp] theorem State.emitTone_diag (e : ToneEdge) : (s.emitTone e).diag = s.diag := rfl
@[simp] theorem State.emitTone_draws (e : ToneEdge) : (s.emitTone e).draws = s.draws := rfl
@[simp] theorem State.emitTone_status (e : ToneEdge) : (s.emitTone e).status = s.status := rfl
@[simp] theorem State.getV_emitTone (e : ToneEdge) (q : RegIdx) : (s.emitTone e).getV q = s.getV q := rfl
@[simp] theorem State.readByte_emitTone (e : ToneEdge) (q : Addr) : (s.emitTone e).readByte q = s.readByte q := rfl
@[simp] theorem State.pressed_emitTone (e : ToneEdge) (q : KeyIdx) : (s.emitTone e).pressed q = s.pressed q := rfl

/-! ### emitDiag -/

@[simp] theorem State.emitDiag_v (e : DiagEvent) : (s.emitDiag e).v = s.v := rfl
@[simp] theorem State.emitDiag_i (e : DiagEvent) : (s.emitDiag e).i = s.i := rfl
@[simp] theorem State.emitDiag_pc (e : DiagEvent) : (s.emitDiag e).pc = s.pc := rfl
@[simp] theorem State.emitDiag_stack (e : DiagEvent) : (s.emitDiag e).stack = s.stack := rfl
@[simp] theorem State.emitDiag_sp (e : DiagEvent) : (s.emitDiag e).sp = s.sp := rfl
@[simp] theorem State.emitDiag_dt (e : DiagEvent) : (s.emitDiag e).dt = s.dt := rfl
@[simp] theorem State.emitDiag_st (e : DiagEvent) : (s.emitDiag e).st = s.st := rfl
@[simp] theorem State.emitDiag_key (e : DiagEvent) : (s.emitDiag e).key = s.key := rfl
@[simp] theorem State.emitDiag_fb (e : DiagEvent) : (s.emitDiag e).fb = s.fb := rfl
@[simp] theorem State.emitDiag_draw (e : DiagEvent) : (s.emitDiag e).draw = s.draw := rfl
@[simp] theorem State.emitDiag_mem (e : DiagEvent) : (s.emitDiag e).mem = s.mem := rfl
@[simp] theorem State.emitDiag_tone (e : DiagEvent) : (s.emitDiag e).tone = s.tone := rfl
@[simp] theorem State.emitDiag_diag (e : DiagEvent) : (s.emitDiag e).diag = s.diag ++ [e] := rfl
@[simp] theorem State.emitDiag_draws (e : DiagEvent) : (s.emitDiag e).draws = s.draws := rfl
@[simp] theorem State.emitDiag_status (e : DiagEvent) : (s.emitDiag e).status = s.status := rfl
@[simp] theorem State.getV_emitDiag (e : DiagEvent) (q : RegIdx) : (s.emitDiag e).getV q = s.getV q := rfl
@[simp] theorem State.readByte_emitDiag (e : DiagEvent) (q : Addr) : (s.emitDiag e).readByte q = s.readByte q := rfl
@[simp] theorem State.pressed_emitDiag (e : DiagEvent) (q : KeyIdx) : (s.emitDiag e).pressed q = s.pressed q := rfl

/-! ### countDraw -/

@[simp] theorem State.countDraw_v : (s.countDraw).v = s.v := rfl
@[simp] theorem State.countDraw_i : (s.countDraw).i = s.i := rfl
@[simp] theorem State.countDraw_pc : (s.countDraw).pc = s.pc := rfl
@[simp] theorem State.countDraw_stack : (s.countDraw).stack = s.stack := rfl
@[simp] theorem State.countDraw_sp : (s.countDraw).sp = s.sp := rfl
@[simp] theorem State.countDraw_dt : (s.countDraw).dt = s.dt := rfl
@[simp] theorem State.countDraw_st : (s.countDraw).st = s.st := rfl
@[simp] theorem State.countDraw_key : (s.countDraw).key = s.key := rfl
@[simp] theorem State.countDraw_fb : (s.countDraw).fb = s.fb := rfl
@[simp] theorem State.countDraw_draw : (s.countDraw).draw = s.draw := rfl
@[simp] theorem State.countDraw_mem : (s.countDraw).mem = s.mem := rfl
@[simp] theorem State.countDraw_tone : (s.countDraw).tone = s.tone := rfl
@[simp] theorem State.countDraw_diag : (s.countDraw).diag = s.diag := rfl
@[simp] theorem State.countDraw_draws : (s.countDraw).draws = s.draws + 1 := rfl
@[simp] theorem State.countDraw_status : (s.countDraw).status = s.status := rfl
@[simp] theorem State.getV_countDraw (q : RegIdx) : (s.countDraw).getV q = s.getV q := rfl
@[simp] theorem State.readByte_countDraw (q : Addr) : (s.countDraw).readByte q = s.readByte q := rfl
@[simp] theorem State.pressed_countDraw (q : KeyIdx) : (s.countDraw).pressed q = s.pressed q := rfl

/-! ### setStatus -/

@[simp] theorem State.setStatus_v (u : Status) : (s.setStatus u).v = s.v := rfl
@[simp] theorem State.setStatus_i (u : Status) : (s.setStatus u).i = s.i := rfl
@[simp] theorem State.setStatus_pc (u : Status) : (s.setStatus u).pc = s.pc := rfl
@[simp] theorem State.setStatus_stack (u : Status) : (s.setStatus u).stack = s.stack := rfl
@[simp] theorem State.setStatus_sp (u : Status) : (s.setStatus u).sp = s.sp := rfl
@[simp] theorem State.setStatus_dt (u : Status) : (s.setStatus u).dt = s.dt := rfl
@[simp] theorem State.setStatus_st (u : Status) : (s.setStatus u).st = s.st := rfl
@[simp] theorem State.setStatus_key (u : Status) : (s.setStatus u).key = s.key := rfl
@[simp] theorem State.setStatus_fb (u : Status) : (s.setStatus u).fb = s.fb := rfl
@[simp] theorem State.setStatus_draw (u : Status) : (s.setStatus u).draw = s.draw := rfl
@[simp] theorem State.setStatus_mem (u : Status) : (s.setStatus u).mem = s.mem := rfl
@[simp] theorem State.setStatus_tone (u : Status) : (s.setStatus u).tone = s.tone := rfl
@[simp] theorem State.setStatus_diag (u : Status) : (s.setStatus u).diag = s.diag := rfl
@[simp] theorem State.setStatus_draws (u : Status) : (s.setStatus u).draws = s.draws := rfl
@[simp] theorem State.setStatus_status (u : Status) : (s.setStatus u).status = u := rfl
@[simp] theorem State.getV_setStatus (u : Status) (q : RegIdx) : (s.setStatus u).getV q = s.getV q := rfl
@[simp] theorem State.readByte_setStatus (u : Status) (q : Addr) : (s.setStatus u).readByte q = s.readByte q := rfl
@[simp] theorem State.pressed_setStatus (u : Status) (q : KeyIdx) : (s.setStatus u).pressed q = s.pressed q := rfl

/-! ### advancePc -/

@[simp] theorem State.advancePc_v : (s.advancePc).v = s.v := rfl
@[simp] theorem State.advancePc_i : (s.advancePc).i = s.i := rfl
@[simp] theorem State.advancePc_pc : (s.advancePc).pc = s.pc + 2#12 := rfl
@[simp] theorem State.advancePc_stack : (s.advancePc).stack = s.stack := rfl
@[simp] theorem State.advancePc_sp : (s.advancePc).sp = s.sp := rfl
@[simp] theorem State.advancePc_dt : (s.advancePc).dt = s.dt := rfl
@[simp] theorem State.advancePc_st : (s.advancePc).st = s.st := rfl
@[simp] theorem State.advancePc_key : (s.advancePc).key = s.key := rfl
@[simp] theorem State.advancePc_fb : (s.advancePc).fb = s.fb := rfl
@[simp] theorem State.advancePc_draw : (s.advancePc).draw = s.draw := rfl
@[simp] theorem State.advancePc_mem : (s.advancePc).mem = s.mem := rfl
@[simp] theorem State.advancePc_tone : (s.advancePc).tone = s.tone := rfl
@[simp] theorem State.advancePc_diag : (s.advancePc).diag = s.diag := rfl
@[simp] theorem State.advancePc_draws : (s.advancePc).draws = s.draws := rfl
@[simp] theorem State.advancePc_status : (s.advancePc).status = s.status := rfl
@[simp] theorem State.getV_advancePc (q : RegIdx) : (s.advancePc).getV q = s.getV q := rfl
@[simp] theorem State.readByte_advancePc (q : Addr) : (s.advancePc).readByte q = s.readByte q := rfl
@[simp] theorem State.pressed_advancePc (q : KeyIdx) : (s.advancePc).pressed q = s.pressed q := rfl

/-! ### writeByte -/

@[simp] theorem State.writeByte_v (a : Addr) (b : Byte) : (s.writeByte a b).v = s.v := rfl
@[simp] theorem State.writeByte_i (a : Addr) (b : Byte) : (s.writeByte a b).i = s.i := rfl
@[simp] theorem State.writeByte_pc (a : Addr) (b : Byte) : (s.writeByte a b).pc = s.pc := rfl
@[simp] theorem State.writeByte_stack (a : Addr) (b : Byte) : (s.writeByte a b).stack = s.stack := rfl
@[simp] theorem State.writeByte_sp (a : Addr) (b : Byte) : (s.writeByte a b).sp = s.sp := rfl
@[simp] theorem State.writeByte_dt (a : Addr) (b : Byte) : (s.writeByte a b).dt = s.dt := rfl
@[simp] theorem State.writeByte_st (a : Addr) (b : Byte) : (s.writeByte a b).st = s.st := rfl
@[simp] theorem State.writeByte_key (a : Addr) (b : Byte) : (s.writeByte a b).key = s.key := rfl
@[simp] theorem State.writeByte_fb (a : Addr) (b : Byte) : (s.writeByte a b).fb = s.fb := rfl
@[simp] theorem State.writeByte_draw (a : Addr) (b : Byte) : (s.writeByte a b).draw = s.draw := rfl
@[simp] theorem State.writeByte_mem (a : Addr) (b : Byte) : (s.writeByte a b).mem = Memory.write s.mem a.toNat b := rfl
@[simp] theorem State.writeByte_tone (a : Addr) (b : Byte) : (s.writeByte a b).tone = s.tone := rfl
@[simp] theorem State.writeByte_diag (a : Addr) (b : Byte) : (s.writeByte a b).diag = s.diag := rfl
@[simp] theorem State.writeByte_draws (a : Addr) (b : Byte) : (s.writeByte a b).draws = s.draws := rfl
@[simp] theorem State.writeByte_status (a : Addr) (b : Byte) : (s.writeByte a b).status = s.status := rfl
@[simp] theorem State.getV_writeByte (a : Addr) (b : Byte) (q : RegIdx) : (s.writeByte a b).getV q = s.getV q := rfl
@[simp] theorem State.pressed_writeByte (a : Addr) (b : Byte) (q : KeyIdx) : (s.writeByte a b).pressed q = s.pressed q := rfl

/-! ### writeFlagged -/

@[simp] theorem State.writeFlagged_v (x : RegIdx) (b : Byte) (f : Bool) : (s.writeFlagged x b f).v = (s.v.set vF.val (flagByte f)).set x.val b := rfl
@[simp] theorem State.writeFlagged_i (x : RegIdx) (b : Byte) (f : Bool) : (s.writeFlagged x b f).i = s.i := rfl
@[simp] theorem State.writeFlagged_pc (x : RegIdx) (b : Byte) (f : Bool) : (s.writeFlagged x b f).pc = s.pc := rfl
@[simp] theorem State.writeFlagged_stack (x : RegIdx) (b : Byte) (f : Bool) : (s.writeFlagged x b f).stack = s.stack := rfl
@[simp] theorem State.writeFlagged_sp (x : RegIdx) (b : Byte) (f : Bool) : (s.writeFlagged x b f).sp = s.sp := rfl
@[simp] theorem State.writeFlagged_dt (x : RegIdx) (b : Byte) (f : Bool) : (s.writeFlagged x b f).dt = s.dt := rfl
@[simp] theorem State.writeFlagged_st (x : RegIdx) (b : Byte) (f : Bool) : (s.writeFlagged x b f).st = s.st := rfl
@[simp] theorem State.writeFlagged_key (x : RegIdx) (b : Byte) (f : Bool) : (s.writeFlagged x b f).key = s.key := rfl
@[simp] theorem State.writeFlagged_fb (x : RegIdx) (b : Byte) (f : Bool) : (s.writeFlagged x b f).fb = s.fb := rfl
@[simp] theorem State.writeFlagged_draw (x : RegIdx) (b : Byte) (f : Bool) : (s.writeFlagged x b f).draw = s.draw := rfl
@[simp] theorem State.writeFlagged_mem (x : RegIdx) (b : Byte) (f : Bool) : (s.writeFlagged x b f).mem = s.mem := rfl
@[simp] theorem State.writeFlagged_tone (x : RegIdx) (b : Byte) (f : Bool) : (s.writeFlagged x b f).tone = s.tone := rfl
@[simp] theorem State.writeFlagged_diag (x : RegIdx) (b : Byte) (f : Bool) : (s.writeFlagged x b f).diag = s.diag := rfl
@[simp] theorem State.writeFlagged_draws (x : RegIdx) (b : Byte) (f : Bool) : (s.writeFlagged x b f).draws = s.draws := rfl
@[simp] theorem State.writeFlagged_status (x : RegIdx) (b : Byte) (f : Bool) : (s.writeFlagged x b f).status = s.status := rfl
@[simp] theorem State.readByte_writeFlagged (x : RegIdx) (b : Byte) (f : Bool) (q : Addr) : (s.writeFlagged x b f).readByte q = s.readByte q := rfl
@[simp] theorem State.pressed_writeFlagged (x : RegIdx) (b : Byte) (f : Bool) (q : KeyIdx) : (s.writeFlagged x b f).pressed q = s.pressed q := rfl

end Sys2Proof.Machine
end

