-- ==== Sys2Proof/Laws/Ops.lean ====
section
/-! SUPPORT. One lemma per shared operation: everything it can do. -/

namespace Sys2Proof.Machine

variable (s : State)

/-! ### Registers, memory, pixels: what a read sees after a write -/

theorem State.getV_setV (x q : RegIdx) (b : Byte) : (s.setV x b).getV q = if q = x then b else s.getV q := by
  simp only [State.getV, State.setV, Vector.getElem_set, Fin.ext_iff, eq_comm]

@[simp] theorem State.getV_setV_same (x : RegIdx) (b : Byte) : (s.setV x b).getV x = b := by
  simp [State.getV_setV]

theorem State.getV_writeFlagged (x q : RegIdx) (b : Byte) (f : Bool) :
    (s.writeFlagged x b f).getV q = if q = x then b else if q = vF then flagByte f else s.getV q := by
  simp [State.writeFlagged, State.getV_setV]

theorem State.readByte_writeByte (a q : Addr) (b : Byte) :
    (s.writeByte a b).readByte q = if q = a then b else s.readByte q := by
  simp only [State.readByte, State.writeByte, State.setMem, Memory.read_write, BitVec.toNat_inj]

theorem State.writeByte_wf {s : State} (a : Addr) (b : Byte) (h : s.mem.wf = true) :
    (s.writeByte a b).mem.wf = true := by
  simpa using Memory.wf_write b h a.isLt

theorem FrameBuffer.pixel_setPixel (fb : FrameBuffer) (r q : Fin 32) (c d : Fin 64) (p : Bool) :
    FrameBuffer.pixel (FrameBuffer.setPixel fb r c p) q d
      = if q = r ∧ d = c then p else FrameBuffer.pixel fb q d := by
  simp only [FrameBuffer.pixel, FrameBuffer.setPixel, Vector.getElem_set, Fin.ext_iff]
  by_cases hr : r.val = q.val
  · by_cases hc : c.val = d.val <;> simp [hr, hc, eq_comm]
  · simp [hr, Ne.symm hr]

@[simp] theorem FrameBuffer.pixel_blank (r : Fin 32) (c : Fin 64) :
    FrameBuffer.pixel FrameBuffer.blank r c = false := by
  simp [FrameBuffer.pixel, FrameBuffer.blank]

/-- A word written is fetched back, at any address, the top of memory included (20_memory.md R32, R43). -/
theorem State.fetch16_writeWord (a : Addr) (w : Word) : (s.writeWord a w).fetch16 a = w := by
  have hne : a ≠ a + 1#12 := by bv_omega
  simp only [State.fetch16, State.writeWord, State.readByte_writeByte, if_true, if_neg hne,
    wordOfBytes_bytesOfWord]

/-! ### The call stack -/

/-- A push succeeds exactly when the stack is not full. -/
theorem State.push_of_room (a : Addr) (h : s.sp.val < 16) :
    s.push a = some ((s.setSlot ⟨s.sp.val, h⟩ a).setSp ⟨s.sp.val + 1, by omega⟩) := by
  simp [State.push, h]

theorem State.push_full (a : Addr) (h : s.sp.val = 16) : s.push a = none := by
  simp [State.push, h]

/-- A pop succeeds exactly when the stack is not empty, and clears no slot. -/
theorem State.pop_of_held (h : 0 < s.sp.val) :
    s.pop = some (s.setSp ⟨s.sp.val - 1, by omega⟩, s.stack[s.sp.val - 1]'(by omega)) := by
  simp [State.pop, h]

theorem State.pop_empty (h : s.sp.val = 0) : s.pop = none := by
  simp [State.pop, h]

/-! ### The sound timer -/

/-- `writeSt` sets ST and appends at most one edge. -/
theorem State.writeSt_cases (b : Byte) :
    (s.st = 0#8 ∧ b ≠ 0#8 ∧ s.writeSt b = (s.setSt b).emitTone .start)
    ∨ (s.st ≠ 0#8 ∧ b = 0#8 ∧ s.writeSt b = (s.setSt b).emitTone .stop)
    ∨ ((s.st = 0#8 ↔ b = 0#8) ∧ s.writeSt b = s.setSt b) := by
  unfold State.writeSt
  by_cases h1 : s.st = 0#8 <;> by_cases h2 : b = 0#8 <;> simp [h1, h2]

/-! ### How an instruction ends -/

/-- An instruction that completes goes on with its status set, and nothing else. -/
theorem executed_eq : executed s = .next (s.setStatus .executed) := rfl

/-- A diagnostic appends its event, sets the status, and does nothing else (60_exceptions.md R94). -/
theorem raiseDiagnostic_eq (k : DiagKind) (a : Addr) (w : Word) :
    raiseDiagnostic k a w s = .next ((s.emitDiag ⟨k, a, w⟩).setStatus (.diagnosed k)) := rfl

/-- A block puts PC back and sets the status, and nothing else (44_keys_timers.md R90). -/
theorem block_eq : block s = .next ((s.setPc (s.pc - 2#12)).setStatus .blocked) := rfl

end Sys2Proof.Machine
end

