-- ==== Sys2Proof/Laws/Blit.lean ====
section
/-! SUPPORT. The sprite blit in closed form: which pixels toggle, and when it collides. The loop touches each pixel at most once, because a sprite never overlaps itself (43_display.md R86). -/

namespace Sys2Proof.Machine

/-- Some set bit of the first `cols` columns of the row lands on (r, c). -/
def rowHits (b cx cy : Byte) (row cols : Nat) (r : Fin 32) (c : Fin 64) : Prop :=
  ∃ col < cols, spriteBit b col = true ∧ r = spriteRow cy row ∧ c = spriteCol cx col

/-- Some set bit of the first `rows` rows of the sprite at I lands on (r, c). -/
def blitHits (s : State) (cx cy : Byte) (rows : Nat) (r : Fin 32) (c : Fin 64) : Prop :=
  ∃ row < rows, rowHits (s.readByte (s.iPlus row)) cx cy row 8 r c

theorem spriteCol_inj {cx : Byte} {i j : Nat} (hi : i < 8) (hj : j < 8)
    (h : spriteCol cx i = spriteCol cx j) : i = j := by
  have h := congrArg Fin.val h
  simp [spriteCol, Fin.ofNat] at h
  omega

theorem spriteRow_inj {cy : Byte} {i j : Nat} (hi : i < 16) (hj : j < 16)
    (h : spriteRow cy i = spriteRow cy j) : i = j := by
  have h := congrArg Fin.val h
  simp [spriteRow, Fin.ofNat] at h
  omega

/-- One row: a pixel toggles exactly when a set bit lands on it. -/
theorem pixel_blitRow (b cx cy : Byte) (row : Nat) (p : FrameBuffer × Bool) {cols : Nat} (hcols : cols ≤ 8)
    (r : Fin 32) (c : Fin 64) :
    (rowHits b cx cy row cols r c →
      FrameBuffer.pixel (blitRow b cx cy row cols p).1 r c = !FrameBuffer.pixel p.1 r c)
    ∧ (¬ rowHits b cx cy row cols r c →
      FrameBuffer.pixel (blitRow b cx cy row cols p).1 r c = FrameBuffer.pixel p.1 r c) := by
  induction cols with
  | zero => exact ⟨fun ⟨_, h, _⟩ => absurd h (by omega), fun _ => rfl⟩
  | succ n ih =>
    obtain ⟨ih1, ih2⟩ := ih (by omega)
    by_cases hbit : spriteBit b n = true
    · by_cases hrc : r = spriteRow cy row ∧ c = spriteCol cx n
      · have hno : ¬ rowHits b cx cy row n r c := by
          rintro ⟨col, hcol, _, _, hc⟩
          have := spriteCol_inj (by omega) (by omega) (hrc.2.symm.trans hc)
          omega
        have hyes : rowHits b cx cy row (n + 1) r c := ⟨n, by omega, hbit, hrc.1, hrc.2⟩
        refine ⟨fun _ => ?_, fun h => absurd hyes h⟩
        simp only [blitRow, hbit, if_true, blitPixel, FrameBuffer.pixel_setPixel]
        rw [if_pos hrc, ← hrc.1, ← hrc.2, ih2 hno]
      · have hiff : rowHits b cx cy row (n + 1) r c ↔ rowHits b cx cy row n r c := by
          constructor
          · rintro ⟨col, hcol, hb, hr, hc⟩
            rcases Nat.lt_or_eq_of_le (Nat.lt_succ_iff.mp hcol) with h | rfl
            · exact ⟨col, h, hb, hr, hc⟩
            · exact absurd ⟨hr, hc⟩ hrc
          · rintro ⟨col, hcol, h⟩
            exact ⟨col, by omega, h⟩
        simp only [blitRow, hbit, if_true, blitPixel, FrameBuffer.pixel_setPixel, if_neg hrc, hiff]
        exact ⟨ih1, ih2⟩
    · have hiff : rowHits b cx cy row (n + 1) r c ↔ rowHits b cx cy row n r c := by
        constructor
        · rintro ⟨col, hcol, hb, hr, hc⟩
          rcases Nat.lt_or_eq_of_le (Nat.lt_succ_iff.mp hcol) with h | rfl
          · exact ⟨col, h, hb, hr, hc⟩
          · exact absurd hb hbit
        · rintro ⟨col, hcol, h⟩
          exact ⟨col, by omega, h⟩
      simp only [blitRow, if_neg hbit, hiff]
      exact ⟨ih1, ih2⟩

/-- One row: the collision is set exactly when it was, or a set bit lands on a set pixel. -/
theorem hit_blitRow (b cx cy : Byte) (row : Nat) (p : FrameBuffer × Bool) {cols : Nat} (hcols : cols ≤ 8) :
    (blitRow b cx cy row cols p).2 = true
      ↔ p.2 = true ∨ ∃ r c, rowHits b cx cy row cols r c ∧ FrameBuffer.pixel p.1 r c = true := by
  induction cols with
  | zero => simp [blitRow, rowHits]
  | succ n ih =>
    have ih := ih (by omega)
    have hmono : ∀ r c, rowHits b cx cy row n r c → rowHits b cx cy row (n + 1) r c :=
      fun r c ⟨col, hcol, h⟩ => ⟨col, by omega, h⟩
    by_cases hbit : spriteBit b n = true
    · have hno : ¬ rowHits b cx cy row n (spriteRow cy row) (spriteCol cx n) := by
        rintro ⟨col, hcol, _, _, hc⟩
        have := spriteCol_inj (by omega) (by omega) hc
        omega
      have hpix := (pixel_blitRow b cx cy row p (show n ≤ 8 by omega) (spriteRow cy row) (spriteCol cx n)).2 hno
      simp only [blitRow, hbit, if_true, blitPixel, Bool.or_eq_true, ih, hpix]
      constructor
      · rintro ((h | ⟨r, c, h, hp⟩) | h)
        · exact .inl h
        · exact .inr ⟨r, c, hmono r c h, hp⟩
        · exact .inr ⟨_, _, ⟨n, by omega, hbit, rfl, rfl⟩, h⟩
      · rintro (h | ⟨r, c, ⟨col, hcol, hb, hr, hc⟩, hp⟩)
        · exact .inl (.inl h)
        · rcases Nat.lt_or_eq_of_le (Nat.lt_succ_iff.mp hcol) with h | rfl
          · exact .inl (.inr ⟨r, c, ⟨col, h, hb, hr, hc⟩, hp⟩)
          · subst hr hc; exact .inr hp
    · simp only [blitRow, if_neg hbit, ih]
      constructor
      · rintro (h | ⟨r, c, h, hp⟩)
        · exact .inl h
        · exact .inr ⟨r, c, hmono r c h, hp⟩
      · rintro (h | ⟨r, c, ⟨col, hcol, hb, hr, hc⟩, hp⟩)
        · exact .inl h
        · rcases Nat.lt_or_eq_of_le (Nat.lt_succ_iff.mp hcol) with h | rfl
          · exact .inr ⟨r, c, ⟨col, h, hb, hr, hc⟩, hp⟩
          · exact absurd hb hbit

theorem rowHits_row {b cx cy : Byte} {row cols : Nat} {r : Fin 32} {c : Fin 64}
    (h : rowHits b cx cy row cols r c) : r = spriteRow cy row := by
  obtain ⟨_, _, _, hr, _⟩ := h
  exact hr

/-- The whole sprite: a pixel toggles exactly when a set bit lands on it. -/
theorem pixel_blitRows (s : State) (cx cy : Byte) (p : FrameBuffer × Bool) {rows : Nat} (hrows : rows ≤ 16)
    (r : Fin 32) (c : Fin 64) :
    (blitHits s cx cy rows r c →
      FrameBuffer.pixel (blitRows s cx cy rows p).1 r c = !FrameBuffer.pixel p.1 r c)
    ∧ (¬ blitHits s cx cy rows r c →
      FrameBuffer.pixel (blitRows s cx cy rows p).1 r c = FrameBuffer.pixel p.1 r c) := by
  induction rows with
  | zero => exact ⟨fun ⟨_, h, _⟩ => absurd h (by omega), fun _ => rfl⟩
  | succ n ih =>
    obtain ⟨ih1, ih2⟩ := ih (by omega)
    have hrow := pixel_blitRow (s.readByte (s.iPlus n)) cx cy n (blitRows s cx cy n p) (le_refl 8) r c
    by_cases hn : rowHits (s.readByte (s.iPlus n)) cx cy n 8 r c
    · have hno : ¬ blitHits s cx cy n r c := by
        rintro ⟨row, hlt, h⟩
        have := spriteRow_inj (by omega) (by omega) ((rowHits_row h).symm.trans (rowHits_row hn))
        omega
      refine ⟨fun _ => ?_, fun h => absurd ⟨n, by omega, hn⟩ h⟩
      simp only [blitRows]
      rw [hrow.1 hn, ih2 hno]
    · have hiff : blitHits s cx cy (n + 1) r c ↔ blitHits s cx cy n r c := by
        constructor
        · rintro ⟨row, hlt, h⟩
          rcases Nat.lt_or_eq_of_le (Nat.lt_succ_iff.mp hlt) with h' | rfl
          · exact ⟨row, h', h⟩
          · exact absurd h hn
        · rintro ⟨row, hlt, h⟩
          exact ⟨row, by omega, h⟩
      simp only [blitRows, hiff, hrow.2 hn]
      exact ⟨ih1, ih2⟩

/-- The whole sprite: it collides exactly when it did before, or a set bit lands on a set pixel. -/
theorem hit_blitRows (s : State) (cx cy : Byte) (p : FrameBuffer × Bool) {rows : Nat} (hrows : rows ≤ 16) :
    (blitRows s cx cy rows p).2 = true
      ↔ p.2 = true ∨ ∃ r c, blitHits s cx cy rows r c ∧ FrameBuffer.pixel p.1 r c = true := by
  induction rows with
  | zero => simp [blitRows, blitHits]
  | succ n ih =>
    have ih := ih (by omega)
    have hsame : ∀ r c, rowHits (s.readByte (s.iPlus n)) cx cy n 8 r c →
        FrameBuffer.pixel (blitRows s cx cy n p).1 r c = FrameBuffer.pixel p.1 r c := by
      intro r c hn
      refine (pixel_blitRows s cx cy p (show n ≤ 16 by omega) r c).2 ?_
      rintro ⟨row, hlt, h⟩
      have := spriteRow_inj (by omega) (by omega) ((rowHits_row h).symm.trans (rowHits_row hn))
      omega
    simp only [blitRows]
    rw [hit_blitRow _ _ _ _ _ (le_refl 8), ih]
    constructor
    · rintro ((h | ⟨r, c, ⟨row, hlt, h⟩, hp⟩) | ⟨r, c, h, hp⟩)
      · exact .inl h
      · exact .inr ⟨r, c, ⟨row, by omega, h⟩, hp⟩
      · exact .inr ⟨r, c, ⟨n, by omega, h⟩, hsame r c h ▸ hp⟩
    · rintro (h | ⟨r, c, ⟨row, hlt, h⟩, hp⟩)
      · exact .inl (.inl h)
      · rcases Nat.lt_or_eq_of_le (Nat.lt_succ_iff.mp hlt) with h' | rfl
        · exact .inl (.inr ⟨r, c, ⟨row, h', h⟩, hp⟩)
        · exact .inr ⟨r, c, h, (hsame r c h).symm ▸ hp⟩

end Sys2Proof.Machine
end

