-- ==== Sys2Proof/Laws/Blocks.lean ====
section
/-! SUPPORT. What a block transfer leaves in memory and in the registers. -/

namespace Sys2Proof.Machine

/-- The addresses of one block transfer are distinct (20_memory.md R41). -/
theorem blockAddr_ne (base : Addr) {k n : Nat} (hk : k < n) (hn : n < 4096) :
    (base + BitVec.ofNat 12 k).toNat ≠ (base + BitVec.ofNat 12 n).toNat := by
  simp only [BitVec.toNat_add, BitVec.toNat_ofNat]
  omega

@[simp] theorem blockReg_val {k : Nat} (h : k < 16) : (blockReg k).val = k := by
  simp [blockReg, Nat.mod_eq_of_lt h]

/-- A stored byte is register k at `base + k`. -/
theorem read_storeBlock_inside (v : Vector Byte 16) (base : Addr) (m : Memory) {n k : Nat} (hn : n ≤ 16)
    (hk : k < n) :
    Memory.read (storeBlock v base n m) (base + BitVec.ofNat 12 k).toNat = v[k] := by
  induction n with
  | zero => omega
  | succ n ih =>
    simp only [storeBlock]
    rcases Nat.lt_or_eq_of_le (Nat.lt_succ_iff.mp hk) with hlt | rfl
    · rw [Memory.read_write_ne _ _ (blockAddr_ne base hlt (by omega)), ih (by omega) hlt]
    · rw [Memory.read_write_same]
      simp [blockReg_val (show k < 16 by omega)]

/-- Every address outside the block reads as before. -/
theorem read_storeBlock_outside (v : Vector Byte 16) (base : Addr) (m : Memory) {n q : Nat}
    (hq : ∀ k < n, q ≠ (base + BitVec.ofNat 12 k).toNat) :
    Memory.read (storeBlock v base n m) q = Memory.read m q := by
  induction n with
  | zero => rfl
  | succ n ih =>
    simp only [storeBlock]
    rw [Memory.read_write_ne _ _ (hq n (by omega)), ih (fun k hk => hq k (by omega))]

/-- A block store keeps the canonical form of memory. -/
theorem wf_storeBlock (v : Vector Byte 16) (base : Addr) {m : Memory} (n : Nat) (h : m.wf = true) :
    (storeBlock v base n m).wf = true := by
  induction n with
  | zero => exact h
  | succ n ih => exact Memory.wf_write _ ih (base + BitVec.ofNat 12 n).isLt

/-- A block load sets registers 0 to n - 1 from memory and leaves the others. -/
theorem getElem_loadBlock (m : Memory) (base : Addr) (v : Vector Byte 16) {n k : Nat} (hn : n ≤ 16) (hk : k < 16) :
    (loadBlock m base n v)[k]
      = if k < n then Memory.read m (base + BitVec.ofNat 12 k).toNat else v[k] := by
  induction n with
  | zero => simp [loadBlock]
  | succ n ih =>
    simp only [loadBlock, Vector.getElem_set, blockReg_val (show n < 16 by omega)]
    by_cases h : n = k
    · subst h; simp
    · rw [if_neg h, ih (by omega)]
      by_cases hkn : k < n
      · simp [hkn, Nat.lt_succ_of_lt hkn]
      · simp [hkn, show ¬ k < n + 1 by omega]

end Sys2Proof.Machine
end

