-- ==== Sys2Proof/Laws/HostOps.lean ====
section
/-! SUPPORT. What the step and the host operations do, in one lemma each: the two cases of a step, copying an image, the tick, replaying tone edges. -/

namespace Sys2Proof

open Sys2Proof.Machine

variable {s t : State}

/-! ### The step -/

theorem step_of_decoded {i : Instr} (hd : decodeWord (s.fetch16 s.pc) = .ok i) : step s = exec i s.advancePc := by
  simp only [step, hd]

theorem step_of_unknown {e : DecodeError} (hd : decodeWord (s.fetch16 s.pc) = .error e) :
    step s = .next ((s.advancePc.emitDiag ⟨.unknownOpcode, s.pc, s.fetch16 s.pc⟩).setStatus
      (.diagnosed .unknownOpcode)) := by
  simp only [step, hd, raiseDiagnostic]

/-- What `withFetchWord` stores, the step fetches. -/
theorem fetch_withFetchWord (nbits w : Nat) :
    (s.withFetchWord nbits w).fetch16 (s.withFetchWord nbits w).pc = BitVec.ofNat 16 (w % 2 ^ nbits) := by
  have hp : (s.withFetchWord nbits w).pc = s.pc := rfl
  rw [hp, State.withFetchWord, State.fetch16_writeWord]

/-! ### Copying an image -/

theorem read_copyBytes (bytes : List Byte) (a : Nat) (m : Memory) (q : Nat) :
    Memory.read (copyBytes bytes a m) q
      = if a ≤ q ∧ q < a + bytes.length then bytes.getD (q - a) 0#8 else Memory.read m q := by
  induction bytes generalizing a m with
  | nil => rw [if_neg (by simp)]; rfl
  | cons b r ih =>
    simp only [copyBytes]
    rw [ih]
    by_cases h1 : q = a
    · subst h1; simp
    · by_cases h2 : a + 1 ≤ q ∧ q < a + 1 + r.length
      · have hq : q - a = (q - (a + 1)) + 1 := by omega
        rw [if_pos h2, if_pos (by simp; omega), hq]
        simp
      · rw [if_neg h2, if_neg (by simp; omega), Memory.read_write_ne _ _ h1]

theorem wf_copyBytes (bytes : List Byte) (a : Nat) (m : Memory) (h : m.wf = true)
    (ha : a + bytes.length ≤ 4096) : (copyBytes bytes a m).wf = true := by
  induction bytes generalizing a m with
  | nil => exact h
  | cons b r ih =>
    simp only [List.length_cons] at ha
    exact ih _ _ (Memory.wf_write b h (by omega)) (by omega)

/-! ### The tick -/

/-- The delay timer's part writes DT alone. -/
theorem tickDelay_cases (s : State) :
    (0 < s.dt.toNat ∧ tickDelay s = s.setDt (s.dt - 1#8)) ∨ (s.dt = 0#8 ∧ tickDelay s = s) := by
  unfold tickDelay
  by_cases h : s.dt.toNat > 0
  · exact .inl ⟨h, if_pos h⟩
  · exact .inr ⟨BitVec.eq_of_toNat_eq (by simp; omega), if_neg h⟩

/-- The sound timer's part writes ST, and reports the end of the tone when ST was 1. -/
theorem tickSound_cases (s : State) :
    (s.st = 1#8 ∧ tickSound s = (s.setSt 0#8).emitTone .stop)
    ∨ (1 < s.st.toNat ∧ tickSound s = s.setSt (s.st - 1#8)) ∨ (s.st = 0#8 ∧ tickSound s = s) := by
  unfold tickSound
  by_cases h : s.st.toNat > 0
  · rw [if_pos h]
    by_cases h1 : s.st = 1#8
    · exact .inl ⟨h1, by simp [h1]⟩
    · have hn : s.st - 1#8 ≠ 0#8 := by bv_omega
      exact .inr (.inl ⟨by bv_omega, if_neg hn⟩)
  · exact .inr (.inr ⟨BitVec.eq_of_toNat_eq (by simp; omega), if_neg h⟩)

/-! ### Tone edges -/

/-- Replaying one edge more goes on from the level before it. -/
theorem toneReplay_append {level level' : Bool} {es : List ToneEdge} (e : ToneEdge)
    (h : toneReplay level es = some level') : toneReplay level (es ++ [e]) = toneReplay level' [e] := by
  induction es generalizing level with
  | nil => simp [toneReplay] at h; simp [h]
  | cons x r ih => cases level <;> cases x <;> simp [toneReplay] at h ⊢ <;> exact ih h

end Sys2Proof
end

