-- ==== Sys2Proof/Laws/PerInstr.lean ====
section
/-! SUPPORT. Family EncodingFitsRow: the word of every instruction matches its row of the opcode table (30_encoding.md R55). -/

namespace Sys2Proof.Laws

/-- The encoder's word matches the row's pattern under its mask. -/
def EncodingFitsRow.Statement (i : Instr) : Prop := i.row.fits (encode i) = true

theorem fits_op (w p : Word) {op : BitVec 4} (h : fieldOp w = op) (hp : packNnn op 0 = p) :
    OpcodeRow.fits ⟨p, 0xF000#16⟩ w = true := by
  have := mask_op w
  simp only [OpcodeRow.fits, beq_iff_eq]
  rw [this, h, hp]

theorem fits_op_n (w p : Word) {op : BitVec 4} (n : Fin 16) (h : fieldOp w = op) (hn : fieldN w = n)
    (hp : packXyn op 0 0 n = p) : OpcodeRow.fits ⟨p, 0xF00F#16⟩ w = true := by
  have := mask_op_n w
  simp only [OpcodeRow.fits, beq_iff_eq]
  rw [this, h, hn, hp]

theorem fits_op_nn (w p : Word) {op : BitVec 4} (nn : Byte) (h : fieldOp w = op) (hn : fieldNn w = nn)
    (hp : packXnn op 0 nn = p) : OpcodeRow.fits ⟨p, 0xF0FF#16⟩ w = true := by
  have := mask_op_nn w
  simp only [OpcodeRow.fits, beq_iff_eq]
  rw [this, h, hn, hp]

theorem EncodingFitsRow.sys (nnn : Addr) : EncodingFitsRow.Statement (.sys nnn) :=
  fits_op (op := 0x0#4) _ _ (by simp [encode]) (by decide)

theorem EncodingFitsRow.cls : EncodingFitsRow.Statement .cls :=
  rfl

theorem EncodingFitsRow.ret : EncodingFitsRow.Statement .ret :=
  rfl

theorem EncodingFitsRow.jp (nnn : Addr) : EncodingFitsRow.Statement (.jp nnn) :=
  fits_op (op := 0x1#4) _ _ (by simp [encode]) (by decide)

theorem EncodingFitsRow.call (nnn : Addr) : EncodingFitsRow.Statement (.call nnn) :=
  fits_op (op := 0x2#4) _ _ (by simp [encode]) (by decide)

theorem EncodingFitsRow.seImm (x : RegIdx) (nn : Byte) : EncodingFitsRow.Statement (.seImm x nn) :=
  fits_op (op := 0x3#4) _ _ (by simp [encode]) (by decide)

theorem EncodingFitsRow.sneImm (x : RegIdx) (nn : Byte) : EncodingFitsRow.Statement (.sneImm x nn) :=
  fits_op (op := 0x4#4) _ _ (by simp [encode]) (by decide)

theorem EncodingFitsRow.seReg (x y : RegIdx) : EncodingFitsRow.Statement (.seReg x y) :=
  fits_op_n (op := 0x5#4) _ _ 0 (by simp [encode]) (by simp [encode]) (by decide)

theorem EncodingFitsRow.ldImm (x : RegIdx) (nn : Byte) : EncodingFitsRow.Statement (.ldImm x nn) :=
  fits_op (op := 0x6#4) _ _ (by simp [encode]) (by decide)

theorem EncodingFitsRow.addImm (x : RegIdx) (nn : Byte) : EncodingFitsRow.Statement (.addImm x nn) :=
  fits_op (op := 0x7#4) _ _ (by simp [encode]) (by decide)

theorem EncodingFitsRow.ldReg (x y : RegIdx) : EncodingFitsRow.Statement (.ldReg x y) :=
  fits_op_n (op := 0x8#4) _ _ 0 (by simp [encode]) (by simp [encode]) (by decide)

theorem EncodingFitsRow.orReg (x y : RegIdx) : EncodingFitsRow.Statement (.orReg x y) :=
  fits_op_n (op := 0x8#4) _ _ 1 (by simp [encode]) (by simp [encode]) (by decide)

theorem EncodingFitsRow.andReg (x y : RegIdx) : EncodingFitsRow.Statement (.andReg x y) :=
  fits_op_n (op := 0x8#4) _ _ 2 (by simp [encode]) (by simp [encode]) (by decide)

theorem EncodingFitsRow.xorReg (x y : RegIdx) : EncodingFitsRow.Statement (.xorReg x y) :=
  fits_op_n (op := 0x8#4) _ _ 3 (by simp [encode]) (by simp [encode]) (by decide)

theorem EncodingFitsRow.addReg (x y : RegIdx) : EncodingFitsRow.Statement (.addReg x y) :=
  fits_op_n (op := 0x8#4) _ _ 4 (by simp [encode]) (by simp [encode]) (by decide)

theorem EncodingFitsRow.subReg (x y : RegIdx) : EncodingFitsRow.Statement (.subReg x y) :=
  fits_op_n (op := 0x8#4) _ _ 5 (by simp [encode]) (by simp [encode]) (by decide)

theorem EncodingFitsRow.shr (x y : RegIdx) : EncodingFitsRow.Statement (.shr x y) :=
  fits_op_n (op := 0x8#4) _ _ 6 (by simp [encode]) (by simp [encode]) (by decide)

theorem EncodingFitsRow.subn (x y : RegIdx) : EncodingFitsRow.Statement (.subn x y) :=
  fits_op_n (op := 0x8#4) _ _ 7 (by simp [encode]) (by simp [encode]) (by decide)

theorem EncodingFitsRow.shl (x y : RegIdx) : EncodingFitsRow.Statement (.shl x y) :=
  fits_op_n (op := 0x8#4) _ _ 14 (by simp [encode]) (by simp [encode]) (by decide)

theorem EncodingFitsRow.sneReg (x y : RegIdx) : EncodingFitsRow.Statement (.sneReg x y) :=
  fits_op_n (op := 0x9#4) _ _ 0 (by simp [encode]) (by simp [encode]) (by decide)

theorem EncodingFitsRow.ldI (nnn : Addr) : EncodingFitsRow.Statement (.ldI nnn) :=
  fits_op (op := 0xA#4) _ _ (by simp [encode]) (by decide)

theorem EncodingFitsRow.jpV0 (nnn : Addr) : EncodingFitsRow.Statement (.jpV0 nnn) :=
  fits_op (op := 0xB#4) _ _ (by simp [encode]) (by decide)

theorem EncodingFitsRow.rnd (x : RegIdx) (nn : Byte) : EncodingFitsRow.Statement (.rnd x nn) :=
  fits_op (op := 0xC#4) _ _ (by simp [encode]) (by decide)

theorem EncodingFitsRow.drw (x y : RegIdx) (n : Fin 16) : EncodingFitsRow.Statement (.drw x y n) :=
  fits_op (op := 0xD#4) _ _ (by simp [encode]) (by decide)

theorem EncodingFitsRow.skp (x : RegIdx) : EncodingFitsRow.Statement (.skp x) :=
  fits_op_nn (op := 0xE#4) _ _ 0x9E#8 (by simp [encode]) (by simp [encode]) (by decide)

theorem EncodingFitsRow.sknp (x : RegIdx) : EncodingFitsRow.Statement (.sknp x) :=
  fits_op_nn (op := 0xE#4) _ _ 0xA1#8 (by simp [encode]) (by simp [encode]) (by decide)

theorem EncodingFitsRow.ldVxDt (x : RegIdx) : EncodingFitsRow.Statement (.ldVxDt x) :=
  fits_op_nn (op := 0xF#4) _ _ 0x07#8 (by simp [encode]) (by simp [encode]) (by decide)

theorem EncodingFitsRow.ldVxK (x : RegIdx) : EncodingFitsRow.Statement (.ldVxK x) :=
  fits_op_nn (op := 0xF#4) _ _ 0x0A#8 (by simp [encode]) (by simp [encode]) (by decide)

theorem EncodingFitsRow.ldDtVx (x : RegIdx) : EncodingFitsRow.Statement (.ldDtVx x) :=
  fits_op_nn (op := 0xF#4) _ _ 0x15#8 (by simp [encode]) (by simp [encode]) (by decide)

theorem EncodingFitsRow.ldStVx (x : RegIdx) : EncodingFitsRow.Statement (.ldStVx x) :=
  fits_op_nn (op := 0xF#4) _ _ 0x18#8 (by simp [encode]) (by simp [encode]) (by decide)

theorem EncodingFitsRow.addI (x : RegIdx) : EncodingFitsRow.Statement (.addI x) :=
  fits_op_nn (op := 0xF#4) _ _ 0x1E#8 (by simp [encode]) (by simp [encode]) (by decide)

theorem EncodingFitsRow.ldF (x : RegIdx) : EncodingFitsRow.Statement (.ldF x) :=
  fits_op_nn (op := 0xF#4) _ _ 0x29#8 (by simp [encode]) (by simp [encode]) (by decide)

theorem EncodingFitsRow.ldB (x : RegIdx) : EncodingFitsRow.Statement (.ldB x) :=
  fits_op_nn (op := 0xF#4) _ _ 0x33#8 (by simp [encode]) (by simp [encode]) (by decide)

theorem EncodingFitsRow.storeRegs (x : RegIdx) : EncodingFitsRow.Statement (.storeRegs x) :=
  fits_op_nn (op := 0xF#4) _ _ 0x55#8 (by simp [encode]) (by simp [encode]) (by decide)

theorem EncodingFitsRow.loadRegs (x : RegIdx) : EncodingFitsRow.Statement (.loadRegs x) :=
  fits_op_nn (op := 0xF#4) _ _ 0x65#8 (by simp [encode]) (by simp [encode]) (by decide)

end Sys2Proof.Laws
end

