-- ==== Sys2Proof/Tests/Slice0.lean ====
section
/-! SUPPORT. The model's own tests: ill-formed terms, one word per row of the opcode table, single steps with the expected values of 95_test_vectors.md, and a witness for the hypotheses of each statement that has some. -/

namespace Sys2Proof.Tests

open Sys2Proof.Machine

/-! ## Helpers -/

/-- The reset state with a word at address a, and PC there. -/
def at_ (a : Addr) (w : Nat) : State := (State.reset.setPc a).withFetchWord 16 w

/-- The reset state with a word at 0x200. -/
def at200 (w : Nat) : State := at_ 0x200#12 w

/-- One step goes on to a state with the property. -/
def stepTo (s : State) (p : State → Bool) : Bool :=
  match step s with
  | .next t => p t
  | .fault _ => false
  | .refused _ => false

/-- The state after one step. -/
def after (s : State) : State :=
  match step s with
  | .next t => t
  | .fault _ => s
  | .refused _ => s

/-- The state after one frame. -/
def afterFrame (ipf : Nat) (s : State) : State :=
  match advanceFrame ipf s with
  | .next t => t
  | .fault _ => s
  | .refused _ => s

/-- The pixels of a row, leftmost first, as the columns that are 1. -/
def rowOnes (t : State) (r : Fin 32) : List Nat :=
  ((List.finRange 64).filter (fun c => FrameBuffer.pixel t.fb r c)).map (·.val)

/-! ## Well-formedness: the one check refuses the two terms that are other instructions (30_encoding.md R49) -/

theorem test_wf_sys_of_cls_word : (Instr.sys 0x0E0#12).wf = false := by decide
theorem test_wf_sys_of_ret_word : (Instr.sys 0x0EE#12).wf = false := by decide
theorem test_wf_sys_else : (Instr.sys 0x0EF#12).wf = true := by decide

/-! ## Decoding: a word of each row, written from the patterns of 30_encoding.md R55 -/

theorem test_decode_sys : decodeWord 0x0ABC#16 = .ok (.sys 0xABC#12) := by decide
theorem test_decode_cls : decodeWord 0x00E0#16 = .ok .cls := by decide
theorem test_decode_ret : decodeWord 0x00EE#16 = .ok .ret := by decide
theorem test_decode_jp : decodeWord 0x1ABC#16 = .ok (.jp 0xABC#12) := by decide
theorem test_decode_call : decodeWord 0x2ABC#16 = .ok (.call 0xABC#12) := by decide
theorem test_decode_seImm : decodeWord 0x3A5C#16 = .ok (.seImm 10 0x5C#8) := by decide
theorem test_decode_sneImm : decodeWord 0x4A5C#16 = .ok (.sneImm 10 0x5C#8) := by decide
theorem test_decode_seReg : decodeWord 0x5AB0#16 = .ok (.seReg 10 11) := by decide
theorem test_decode_ldImm : decodeWord 0x6A5C#16 = .ok (.ldImm 10 0x5C#8) := by decide
theorem test_decode_addImm : decodeWord 0x7A5C#16 = .ok (.addImm 10 0x5C#8) := by decide
theorem test_decode_ldReg : decodeWord 0x8AB0#16 = .ok (.ldReg 10 11) := by decide
theorem test_decode_orReg : decodeWord 0x8AB1#16 = .ok (.orReg 10 11) := by decide
theorem test_decode_andReg : decodeWord 0x8AB2#16 = .ok (.andReg 10 11) := by decide
theorem test_decode_xorReg : decodeWord 0x8AB3#16 = .ok (.xorReg 10 11) := by decide
theorem test_decode_addReg : decodeWord 0x8AB4#16 = .ok (.addReg 10 11) := by decide
theorem test_decode_subReg : decodeWord 0x8AB5#16 = .ok (.subReg 10 11) := by decide
theorem test_decode_shr : decodeWord 0x8AB6#16 = .ok (.shr 10 11) := by decide
theorem test_decode_subn : decodeWord 0x8AB7#16 = .ok (.subn 10 11) := by decide
theorem test_decode_shl : decodeWord 0x8ABE#16 = .ok (.shl 10 11) := by decide
theorem test_decode_sneReg : decodeWord 0x9AB0#16 = .ok (.sneReg 10 11) := by decide
theorem test_decode_ldI : decodeWord 0xAABC#16 = .ok (.ldI 0xABC#12) := by decide
theorem test_decode_jpV0 : decodeWord 0xBABC#16 = .ok (.jpV0 0xABC#12) := by decide
theorem test_decode_rnd : decodeWord 0xCA5C#16 = .ok (.rnd 10 0x5C#8) := by decide
theorem test_decode_drw : decodeWord 0xDABC#16 = .ok (.drw 10 11 12) := by decide
theorem test_decode_skp : decodeWord 0xEA9E#16 = .ok (.skp 10) := by decide
theorem test_decode_sknp : decodeWord 0xEAA1#16 = .ok (.sknp 10) := by decide
theorem test_decode_ldVxDt : decodeWord 0xFA07#16 = .ok (.ldVxDt 10) := by decide
theorem test_decode_ldVxK : decodeWord 0xFA0A#16 = .ok (.ldVxK 10) := by decide
theorem test_decode_ldDtVx : decodeWord 0xFA15#16 = .ok (.ldDtVx 10) := by decide
theorem test_decode_ldStVx : decodeWord 0xFA18#16 = .ok (.ldStVx 10) := by decide
theorem test_decode_addI : decodeWord 0xFA1E#16 = .ok (.addI 10) := by decide
theorem test_decode_ldF : decodeWord 0xFA29#16 = .ok (.ldF 10) := by decide
theorem test_decode_ldB : decodeWord 0xFA33#16 = .ok (.ldB 10) := by decide
theorem test_decode_storeRegs : decodeWord 0xFA55#16 = .ok (.storeRegs 10) := by decide
theorem test_decode_loadRegs : decodeWord 0xFA65#16 = .ok (.loadRegs 10) := by decide

/-- The unknown words of 95_test_vectors.md 2.1. -/
theorem test_decode_unknown :
    [0x5121#16, 0x912F#16, 0x8128#16, 0x812F#16, 0xE000#16, 0xF0FF#16, 0xF100#16].all
      (fun w => decide (decodeWord w = .error (.unknownOpcode w))) = true := by decide

theorem test_decode_bytes_keep_rest :
    decode [0xD0#8, 0x15#8, 0xAA#8] = .ok (.drw 0 1 5, [0xAA#8]) := by decide
theorem test_decode_one_byte : decode [0xD0#8] = .error .truncated := by decide
theorem test_decodeTableWord : decodeTableWord 16 0xF165 = some (.loadRegs 1) := by decide

/-! ## Single steps: expected values from the vectors of 95_test_vectors.md -/

/-- 2.1: the fetch at 0xFFF takes its second byte from 0x000. -/
theorem test_fetch_straddles_top :
    stepTo (at_ 0xFFF#12 0x6142) (fun t => t.getV 1 == 0x42 && t.pc == 0x001) = true := by decide
/-- 2.1: a strict decoder diagnoses 5121. -/
theorem test_unknown_is_diagnosed :
    stepTo (at200 0x5121) (fun t => t.pc == 0x202 && t.diag == [⟨.unknownOpcode, 0x200, 0x5121⟩]) = true := by
  decide
/-- R57 SYS. -/
theorem test_sys :
    stepTo (at_ 0x300#12 0x0123) (fun t => t.pc == 0x302 && t.diag == [⟨.unknownOpcode, 0x300, 0x0123⟩]) = true := by
  decide
/-- R85 CLS. -/
theorem test_cls :
    stepTo (((at200 0x00E0).setFb (FrameBuffer.setPixel (FrameBuffer.setPixel FrameBuffer.blank 0 0 true) 31 63 true)))
      (fun t => rowOnes t 0 == [] && rowOnes t 31 == [] && t.draw && t.diag == []) = true := by decide
/-- R58 RET. -/
theorem test_ret :
    stepTo (((at_ 0x20E#12 0x00EE).setSp 1).setSlot 0 0x206)
      (fun t => t.sp == 0 && t.pc == 0x206 && t.stack[0] == 0x206) = true := by decide
/-- R58 RET, empty stack. -/
theorem test_ret_empty :
    stepTo (at200 0x00EE) (fun t => t.pc == 0x202 && t.diag == [⟨.stackUnderflow, 0x200, 0x00EE⟩]) = true := by
  decide
/-- R59 JP, odd target. -/
theorem test_jp : stepTo (at200 0x1201) (fun t => t.pc == 0x201 && t.status == .executed) = true := by decide
/-- R60 CALL at the top. -/
theorem test_call_at_top :
    stepTo (at_ 0xFFE#12 0x2300) (fun t => t.stack[0] == 0x000 && t.sp == 1 && t.pc == 0x300) = true := by decide
/-- R60 CALL, full stack. -/
theorem test_call_full :
    stepTo ((at200 0x2300).setSp 16)
      (fun t => t.pc == 0x202 && t.sp == 16 && t.diag == [⟨.stackOverflow, 0x200, 0x2300⟩]) = true := by decide
/-- R61 SE, skip wraps; and not taken. -/
theorem test_seImm_wraps : stepTo (at_ 0xFFE#12 0x3000) (fun t => t.pc == 0x002) = true := by decide
theorem test_seImm_not : stepTo ((at_ 0x208#12 0x3305).setV 3 0x06) (fun t => t.pc == 0x20A) = true := by decide
/-- R62 SNE, taken and not. -/
theorem test_sneImm : stepTo ((at_ 0x208#12 0x4305).setV 3 0x06) (fun t => t.pc == 0x20C) = true := by decide
theorem test_sneImm_not : stepTo ((at_ 0x208#12 0x4305).setV 3 0x05) (fun t => t.pc == 0x20A) = true := by decide
/-- R63 SE on registers, taken and not. -/
theorem test_seReg :
    stepTo (((at200 0x5120).setV 1 0x10).setV 2 0x10) (fun t => t.pc == 0x204) = true := by decide
theorem test_seReg_not :
    stepTo (((at200 0x5120).setV 1 0x10).setV 2 0x11) (fun t => t.pc == 0x202) = true := by decide
/-- R64 SNE on registers, taken and not. -/
theorem test_sneReg :
    stepTo (((at200 0x9120).setV 1 0x10).setV 2 0x11) (fun t => t.pc == 0x204) = true := by decide
theorem test_sneReg_not : stepTo (at200 0x9330) (fun t => t.pc == 0x202) = true := by decide
/-- R65 JP V0, largest sum. -/
theorem test_jpV0 : stepTo ((at200 0xBFFF).setV 0 0xFF) (fun t => t.pc == 0x0FE) = true := by decide
/-- E6: 6005 then 7003. -/
theorem test_ldImm : stepTo (at200 0x6005) (fun t => t.getV 0 == 5 && t.pc == 0x202) = true := by decide
/-- R68: 0xFF + 0x01 is 0x00, VF unchanged. -/
theorem test_addImm_wraps :
    stepTo ((at200 0x7001).setV 0 0xFF) (fun t => t.getV 0 == 0 && t.getV 15 == 0) = true := by decide
/-- R69 to R72, their examples. -/
theorem test_ldReg : stepTo ((at200 0x8120).setV 2 0x7A) (fun t => t.getV 1 == 0x7A) = true := by decide
theorem test_orReg :
    stepTo ((((at200 0x8121).setV 1 0x0C).setV 2 0x0A).setV 15 1)
      (fun t => t.getV 1 == 0x0E && t.getV 15 == 1) = true := by decide
theorem test_andReg :
    stepTo ((((at200 0x8122).setV 1 0x0C).setV 2 0x0A).setV 15 1)
      (fun t => t.getV 1 == 0x08 && t.getV 15 == 1) = true := by decide
theorem test_xorReg :
    stepTo ((((at200 0x8123).setV 1 0x0C).setV 2 0x0A).setV 15 1)
      (fun t => t.getV 1 == 0x06 && t.getV 15 == 1) = true := by decide
/-- E1: carry; and x = F. -/
theorem test_addReg_carry :
    stepTo (((at200 0x8124).setV 1 0xF0).setV 2 0x20) (fun t => t.getV 1 == 0x10 && t.getV 15 == 1) = true := by
  decide
theorem test_addReg_into_vF :
    stepTo (((at200 0x8F14).setV 1 0xF0).setV 15 0x20) (fun t => t.getV 15 == 0x10) = true := by decide
/-- E2: borrow; and equal operands. -/
theorem test_subReg_borrow :
    stepTo (((at200 0x8125).setV 1 0x10).setV 2 0x20) (fun t => t.getV 1 == 0xF0 && t.getV 15 == 0) = true := by
  decide
theorem test_subReg_equal :
    stepTo (((at200 0x8125).setV 1 0x33).setV 2 0x33) (fun t => t.getV 1 == 0 && t.getV 15 == 1) = true := by
  decide
/-- R75, its example, with a Vy that must not matter. -/
theorem test_shr :
    stepTo (((at200 0x8126).setV 1 0x05).setV 2 0xFE) (fun t => t.getV 1 == 0x02 && t.getV 15 == 1) = true := by
  decide
/-- R76, its example. -/
theorem test_subn :
    stepTo (((at200 0x8127).setV 1 0x10).setV 2 0x30) (fun t => t.getV 1 == 0x20 && t.getV 15 == 1) = true := by
  decide
/-- R77, its example, with a Vy that must not matter. -/
theorem test_shl :
    stepTo (((at200 0x812E).setV 1 0x81).setV 2 0x7F) (fun t => t.getV 1 == 0x02 && t.getV 15 == 1) = true := by
  decide
/-- R78, its example: if the draw is 0xB7, C30F leaves 0x07. -/
theorem test_rnd (h : Config.randDraw 0 = 0xB7#8) : ∃ t, step (at200 0xC30F) = .next t ∧ t.getV 3 = 0x07#8 :=
  ⟨_, rfl, by show Config.randDraw 0 &&& 0x0F#8 = 0x07#8; rw [h]; decide⟩
/-- R79 to R81, with the wrap of I and the high nibble of Vx ignored. -/
theorem test_ldI : stepTo (at200 0xA2F0) (fun t => t.i == 0x2F0) = true := by decide
theorem test_addI_wraps :
    stepTo (((at200 0xF21E).setI 0xFFF).setV 2 0x01) (fun t => t.i == 0x000 && t.getV 15 == 0) = true := by decide
theorem test_ldF : stepTo ((at200 0xF429).setV 4 0x1A) (fun t => t.i == 0x032) = true := by decide
/-- E7; and R82 at the top of memory. -/
theorem test_ldB :
    stepTo (((at200 0xF033).setI 0x300).setV 0 234)
      (fun t => t.mem == [(0x200, 0xF0), (0x201, 0x33), (0x300, 2), (0x301, 3), (0x302, 4)] && t.i == 0x300) = true := by
  decide
theorem test_ldB_wraps :
    stepTo (((at200 0xF033).setI 0xFFE).setV 0 255)
      (fun t => t.readByte 0xFFE == 2 && t.readByte 0xFFF == 5 && t.readByte 0x000 == 5) = true := by decide
/-- R83: its example; and the wrap of I = 0xFF8 with x = F. -/
theorem test_storeRegs :
    stepTo (((((at200 0xF255).setI 0x300).setV 0 1).setV 1 2).setV 2 3)
      (fun t => t.mem == [(0x200, 0xF2), (0x201, 0x55), (0x300, 1), (0x301, 2), (0x302, 3)] && t.i == 0x303) = true := by
  decide
theorem test_storeRegs_wraps :
    stepTo (((at200 0xFF55).setI 0xFF8).setV 15 0x77)
      (fun t => t.readByte 0x007 == 0x77 && t.readByte 0x000 == 0 && t.readByte 0x008 == 0x20 && t.i == 0x008) = true := by
  decide
/-- R84: the wrap; and 16 registers. -/
theorem test_loadRegs_wraps :
    stepTo ((((at200 0xF165).setI 0xFFF).writeByte 0xFFF 0x11).writeByte 0x000 0x22)
      (fun t => t.getV 0 == 0x11 && t.getV 1 == 0x22 && t.i == 0x001) = true := by decide
theorem test_loadRegs_all :
    stepTo (((at200 0xFF65).setI 0x300).writeByte 0x30F 0x99)
      (fun t => t.getV 15 == 0x99 && t.getV 14 == 0 && t.i == 0x310) = true := by decide
/-- E5: the horizontal wrap. -/
theorem test_drw_wraps :
    stepTo ((((at200 0xD011).setI 0x300).writeByte 0x300 0xFF).setV 0 60)
      (fun t => rowOnes t 0 == [0, 1, 2, 3, 60, 61, 62, 63] && rowOnes t 1 == [] && t.getV 15 == 0 && t.draw) = true := by
  decide
/-- 2.5, x = F: the column is the old VF. -/
theorem test_drw_x_vF :
    stepTo (((((at200 0xDF01).setI 0x300).writeByte 0x300 0x80).setV 15 5).setV 0 2)
      (fun t => rowOnes t 2 == [5] && t.getV 15 == 0) = true := by decide
/-- 2.6: key 3 for Vx = 0x13; and a released key. -/
theorem test_skp :
    stepTo (((at200 0xE09E).setKeyBit 3 true).setV 0 0x13) (fun t => t.pc == 0x204) = true := by decide
theorem test_skp_released : stepTo ((at200 0xE09E).setV 0 5) (fun t => t.pc == 0x202) = true := by decide
theorem test_sknp : stepTo ((at200 0xE0A1).setV 0 5) (fun t => t.pc == 0x204) = true := by decide
theorem test_sknp_pressed :
    stepTo (((at200 0xE0A1).setKeyBit 5 true).setV 0 5) (fun t => t.pc == 0x202) = true := by decide
/-- 2.6: the key wait, no key; and keys 3 and 9. -/
theorem test_ldVxK_blocks :
    stepTo (at200 0xF10A) (fun t => t == { at200 0xF10A with status := .blocked }) = true := by decide
theorem test_ldVxK_least :
    stepTo (((at200 0xF10A).setKeyBit 9 true).setKeyBit 3 true) (fun t => t.getV 1 == 3 && t.pc == 0x202) = true := by
  decide
/-- R91, R92, their examples. -/
theorem test_ldVxDt : stepTo ((at200 0xF307).setDt 0x3C) (fun t => t.getV 3 == 0x3C) = true := by decide
theorem test_ldDtVx : stepTo ((at200 0xF015).setV 0 5) (fun t => t.dt == 5) = true := by decide
/-- 2.6: ST off to on, and on to off. -/
theorem test_ldStVx_starts :
    stepTo ((at200 0xF018).setV 0 3) (fun t => t.st == 3 && t.tone == [.start]) = true := by decide
theorem test_ldStVx_stops :
    stepTo ((at200 0xF018).setSt 5) (fun t => t.st == 0 && t.tone == [.stop]) = true := by decide

/-! ## Frames and host operations: 95_test_vectors.md 2.7 and E8 -/

/-- R103 tick. -/
theorem test_tick :
    (fun t => t.dt == 1 && t.st == 0 && t.tone == [ToneEdge.stop] && t.pc == 0x200)
      (afterFrame 2 (((at200 0x1200).setDt 2).setSt 1)) = true := by decide
/-- R102 blocked frame. -/
theorem test_blocked_frame :
    (fun t => t.pc == 0x200 && t.dt == 4) (afterFrame 10 ((at200 0xF10A).setDt 5)) = true := by decide
/-- R102: diagnosed steps do not stop a frame. -/
theorem test_diagnosed_frame :
    (fun t => t.pc == 0x208 && t.diag.map (·.addr) == [0x200, 0x202, 0x204, 0x206])
      (afterFrame 4 State.reset) = true := by decide
/-- R109. -/
theorem test_setKey : (setKey 0xA true State.reset).1.key[10] = true := by decide
theorem test_setKey_out_of_range : (setKey 16 true State.reset).2 = some .invalidKey := by decide
/-- R116: an overlay. -/
theorem test_load_overlay :
    (loadProgram [0x44] (loadProgram [0x11, 0x22, 0x33] State.reset).1).1.mem
      = [(0x200, 0x44), (0x201, 0x22), (0x202, 0x33)] := by decide
/-- R114: reset after a run, with ST nonzero. -/
theorem test_reset_after_run : hostReset (after ((at200 0xF018).setV 0 3)) = State.reset := by decide

/-! ## Witnesses: concrete states and operands that meet the hypotheses of the statements -/

theorem witness_DecodeOfEncodeIsTheInstruction :
    (Instr.drw 15 15 15).wf = true ∧ (Instr.sys 0xFFF#12).wf = true ∧ (Instr.sys 0x0E1#12).wf = true
      ∧ (Instr.seImm 15 0xFF#8).wf = true := by decide
theorem witness_DecodedWordIsItsInstructionsWord :
    decodeWord 0x0000#16 = .ok (.sys 0#12) ∧ decodeWord 0xFF65#16 = .ok (.loadRegs 15) := by decide
theorem witness_NoWordFitsTwoRowsButSys :
    (Instr.sys 0#12).row.fits 0x00E0#16 = true ∧ Instr.cls.row.fits 0x00E0#16 = true
      ∧ (Instr.shl 0 0).row.fits 0x8FFE#16 = true := by decide
theorem witness_UnknownWordsAreDiagnosedNoOps :
    (unknownWord 0x5001#16 ∧ (at200 0x5001).fetch16 (at200 0x5001).pc = 0x5001#16)
    ∧ (unknownWord 0x800F#16 ∧ (at200 0x800F).fetch16 (at200 0x800F).pc = 0x800F#16)
    ∧ (unknownWord 0x9FFF#16 ∧ (at_ 0xFFF#12 0x9FFF).fetch16 (at_ 0xFFF#12 0x9FFF).pc = 0x9FFF#16)
    ∧ (unknownWord 0xEFFF#16 ∧ (at200 0xEFFF).fetch16 (at200 0xEFFF).pc = 0xEFFF#16)
    ∧ unknownWord 0xF000#16 ∧ (at200 0xF000).fetch16 (at200 0xF000).pc = 0xF000#16 := by
  refine ⟨⟨by decide, by decide⟩, ⟨by decide, by decide⟩, ⟨by decide, by decide⟩, ⟨by decide, by decide⟩,
    by decide, by decide⟩
/-- At 0x200, at 0xFFF where the word straddles the top of memory, and on an unknown word. -/
theorem witness_StepRunsTheDecodedInstruction :
    (∀ s ∈ [at200 0x6142, at_ 0xFFF#12 0x6142], decodeWord 0x6142#16 = .ok (.ldImm 1 0x42#8)
      ∧ (0x6142#16 : Word).toNat = (s.readByte s.pc).toNat * 256 + (s.readByte (s.pc + 1#12)).toNat)
    ∧ decodeWord 0x5121#16 = .error (.unknownOpcode 0x5121#16)
    ∧ (0x5121#16 : Word).toNat = ((at200 0x5121).readByte 0x200).toNat * 256 + ((at200 0x5121).readByte 0x201).toNat := by
  decide
/-- The three kinds, and a step that is not diagnosed. -/
theorem witness_DiagnosedStepHasNoOtherEffect :
    (∃ t, step (at200 0x5121) = .next t ∧ t.status = .diagnosed .unknownOpcode)
    ∧ (∃ t, step ((at200 0x2300).setSp 16) = .next t ∧ t.status = .diagnosed .stackOverflow)
    ∧ (∃ t, step (at200 0x00EE) = .next t ∧ t.status = .diagnosed .stackUnderflow)
    ∧ ∃ t, step (at200 0x6005) = .next t ∧ ∀ kind : DiagKind, t.status ≠ .diagnosed kind :=
  ⟨⟨_, rfl, by decide⟩, ⟨_, rfl, by decide⟩, ⟨_, rfl, by decide⟩, ⟨_, rfl, fun _ h => nomatch h⟩⟩
theorem witness_DiagnosticsHaveExactlyTheirCauses :
    (∃ t, step (at200 0x0123) = .next t ∧ t.status = .diagnosed .unknownOpcode)
    ∧ (∃ t, step ((at200 0x2300).setSp 16) = .next t ∧ t.status = .diagnosed .stackOverflow)
    ∧ ∃ t, step (at200 0x00EE) = .next t ∧ t.status = .diagnosed .stackUnderflow :=
  ⟨⟨_, rfl, by decide⟩, ⟨_, rfl, by decide⟩, ⟨_, rfl, by decide⟩⟩
theorem witness_BlockedStepIsAnUnsatisfiedKeyWait :
    ∃ t, step (at200 0xF10A) = .next t ∧ t.status = .blocked := ⟨_, rfl, by decide⟩
/-- PC = a + 2 also where it wraps. -/
theorem witness_SysIsADiagnosedNoOp :
    (Instr.sys 0x000#12).wf = true ∧ (Instr.sys 0xFFF#12).wf = true
      ∧ (State.reset.setPc 0x000).pc = 0xFFE#12 + 2#12 ∧ State.reset.pc = 0x1FE#12 + 2#12 := by decide
theorem witness_RetPopsTheStackIntoPc :
    State.reset.pc = 0x1FE#12 + 2#12 ∧ State.reset.sp.val = 0
      ∧ (State.reset.setSp 1).sp.val ≠ 0 ∧ (State.reset.setSp 16).sp.val ≠ 0 := by decide
theorem witness_CallPushesTheReturnAddress :
    State.reset.pc = 0x1FE#12 + 2#12 ∧ (State.reset.setSp 16).sp.val = 16
      ∧ (State.reset.setSp 15).sp.val < 16 ∧ State.reset.sp.val < 16 := by decide
theorem witness_RetAfterCallReturnsBehindTheCall :
    (State.reset.setSp 15).sp.val < 16 ∧ ∃ t, exec (.call 0x300#12) (State.reset.setSp 15) = .next t :=
  ⟨by decide, _, rfl⟩
/-- For the statements about 8XY4 to 8XYE with a clause for x other than F. -/
theorem witness_AddSetsVxAndCarry : (14 : RegIdx) ≠ 15 ∧ (0 : RegIdx) ≠ 15 := by decide
theorem witness_FlagIsWrittenBeforeTheResult (s : State) (x y : RegIdx) :
    ∀ p ∈ [(Instr.addReg x y, s.getV x + s.getV y,
          if (s.getV x).toNat + (s.getV y).toNat > 255 then 1#8 else 0#8),
        (Instr.shl x y, s.getV x <<< 1, s.getV x >>> 7)],
      p ∈
      [(Instr.addReg x y, s.getV x + s.getV y,
          if (s.getV x).toNat + (s.getV y).toNat > 255 then 1#8 else 0#8),
       (Instr.subReg x y, s.getV x - s.getV y, if (s.getV x).toNat < (s.getV y).toNat then 0#8 else 1#8),
       (Instr.shr x y, s.getV x >>> 1, s.getV x &&& 1#8),
       (Instr.subn x y, s.getV y - s.getV x, if (s.getV y).toNat < (s.getV x).toNat then 0#8 else 1#8),
       (Instr.shl x y, s.getV x <<< 1, s.getV x >>> 7)] := by
  intro p hp
  simp only [List.mem_cons, List.not_mem_nil, or_false] at hp ⊢
  rcases hp with h | h <;> simp only [h, true_or, or_true]
theorem witness_OnlyRndUsesTheRandomSource :
    (∀ x nn, Instr.jp 0x300#12 ≠ .rnd x nn) ∧ ∃ t, exec (.jp 0x300#12) State.reset = .next t :=
  ⟨fun _ _ h => Instr.noConfusion h, _, rfl⟩
/-- Both clauses at x = 0 and x = 15: registers up to Vx, and a byte outside. -/
theorem witness_BlockStoreWritesV0ToVx :
    (0 : RegIdx) ≤ 0 ∧ (15 : RegIdx) ≤ 15
      ∧ (∀ k : RegIdx, k ≤ 15 → (0x010#12 : Addr) ≠ State.reset.i + BitVec.ofNat 12 k.val)
      ∧ ∀ k : RegIdx, k ≤ 0 → (0x001#12 : Addr) ≠ State.reset.i + BitVec.ofNat 12 k.val := by decide
theorem witness_BlockLoadReadsV0ToVx :
    (0 : RegIdx) ≤ 0 ∧ (15 : RegIdx) ≤ 15 ∧ (14 : RegIdx) < 15 ∧ (0 : RegIdx) < 1 := by decide
theorem witness_BcdStoresThreeDigits :
    (0x003#12 : Addr) ≠ State.reset.i ∧ (0x003#12 : Addr) ≠ State.reset.i + 1#12
      ∧ (0x003#12 : Addr) ≠ State.reset.i + 2#12 := by decide
theorem witness_BlockLoadUndoesBlockStore :
    ∃ t, exec (.storeRegs 15) (State.reset.setI 0xFF8) = .next t := ⟨_, rfl⟩
/-- V0, V1 hold 6142, to be stored at PC. -/
theorem witness_StoredInstructionRunsAtTheNextStep :
    (Instr.ldImm 1 0x42#8).wf = true
    ∧ (fun s : State => s.i = s.pc ∧ [s.getV 0, s.getV 1] = encodeBytes (.ldImm 1 0x42#8))
        (((State.reset.setI 0x200).setV 0 0x61).setV 1 0x42) := by decide
theorem witness_CanonicalMemoriesThatReadAlikeAreEqual :
    Memory.wf [(0x000, 0x00#8), (0xFFF, 0x01#8)] = true
    ∧ ∀ a : Addr, Memory.read [(0x000, 0x00#8), (0xFFF, 0x01#8)] a.toNat
        = Memory.read [(0x000, 0x00#8), (0xFFF, 0x01#8)] a.toNat := ⟨by decide, fun _ => rfl⟩
/-- A covered pixel that was 1, a state without one, and a pixel not covered. -/
theorem witness_DrwXorsTheSpriteAndReportsCollision :
    spriteCovers State.reset 0#8 0#8 1 0 0
    ∧ FrameBuffer.pixel (State.reset.setFb (FrameBuffer.setPixel FrameBuffer.blank 0 0 true)).fb 0 0 = true
    ∧ (¬ ∃ r c, spriteCovers State.reset 0#8 0#8 0 r c ∧ FrameBuffer.pixel State.reset.fb r c = true)
    ∧ ¬ spriteCovers State.reset 0#8 0#8 0 31 63 :=
  ⟨⟨0, by decide, 0, by decide, by decide⟩, by decide,
    fun ⟨_, _, ⟨row, h, _⟩, _⟩ => absurd h (Nat.not_lt_zero row), fun ⟨row, h, _⟩ => absurd h (Nat.not_lt_zero row)⟩
theorem witness_SecondDrawUndoesTheFirst :
    (0 : RegIdx) ≠ 15 ∧ (14 : RegIdx) ≠ 15 ∧ ∃ t, exec (.drw 0 14 15) State.reset = .next t :=
  ⟨by decide, by decide, _, rfl⟩
theorem witness_KeySkips :
    (fun s : State => (3 : Fin 16).val = (s.getV 0).toNat % 16) (State.reset.setV 0 0x13) := by decide
/-- Keys 3 and 15 are the least pressed in two states, and none is in a third. -/
theorem witness_KeyWaitTakesTheLeastKeyOrBlocks :
    State.reset.pc = 0x1FE#12 + 2#12
    ∧ (fun s : State => s.key[(3 : Fin 16).val] = true ∧ ∀ j : Fin 16, j < 3 → s.key[j.val] = false)
        ((State.reset.setKeyBit 3 true).setKeyBit 9 true)
    ∧ (fun s : State => s.key[(15 : Fin 16).val] = true ∧ ∀ j : Fin 16, j < 15 → s.key[j.val] = false)
        (State.reset.setKeyBit 15 true)
    ∧ ∀ k : Fin 16, State.reset.key[k.val] = false := by decide
theorem witness_TickDecrementsNonzeroTimers : ∃ u, runSteps 1 (at200 0x1200) = .next u := ⟨_, rfl⟩
/-- A step that is blocked and one that is not. -/
theorem witness_FrameRunsStepsThenTicksOnce :
    (∃ t, step (at200 0xF10A) = .next t ∧ t.status = .blocked)
    ∧ ∃ t, step (at200 0x1200) = .next t ∧ t.status ≠ .blocked := ⟨⟨_, rfl, by decide⟩, _, rfl, by decide⟩
theorem witness_KeysAreConstantInAFrame : ∃ t, advanceFrame 1 (at200 0x1200) = .next t := ⟨_, rfl⟩
theorem witness_BlockedFrameOnlyTicks :
    1 ≤ 1 ∧ decodeWord ((at200 0xF10A).fetch16 (at200 0xF10A).pc) = .ok (.ldVxK 1)
      ∧ ∀ k : Fin 16, (at200 0xF10A).key[k.val] = false := by decide
theorem witness_SelfJumpOnlyLetsTheTimersRun :
    haltedAt 0x200#12 (at200 0x1200) ∧ haltedAt 0xFFF#12 (at_ 0xFFF#12 0x1FFF) :=
  ⟨⟨by decide, by decide⟩, by decide, by decide⟩
theorem witness_StreamsOnlyGrowInAFrame : ∃ t, advanceFrame 2 State.reset = .next t := ⟨_, rfl⟩
/-- The largest image, its last byte, an image one byte larger, and the last address below it. -/
theorem witness_LoadProgramCopiesOrFails :
    (List.replicate 3584 0x01#8).length ≤ 3584 ∧ (List.replicate 3584 0x01#8)[3583]? = some 0x01#8
    ∧ 3584 < (List.replicate 3585 0x01#8).length ∧ (0x1FF#12 : Addr).toNat < 0x200
    ∧ 0x200 + (List.replicate 3583 0x01#8).length ≤ (0xFFF#12 : Addr).toNat := by
  refine ⟨?_, ?_, ?_, by decide, ?_⟩
  · rw [List.length_replicate]
  · rw [List.getElem?_replicate]; rfl
  · rw [List.length_replicate]; decide
  · rw [List.length_replicate]; decide
theorem witness_SetKeyWritesOneKeyOrFails : 0 < 16 ∧ 15 < 16 ∧ 16 ≤ 16 ∧ 14 ≠ 15 := by decide
theorem witness_ResetHoldsTheStatedValues :
    0x050 ≤ (0x050#12 : Addr).toNat ∧ 0x050 ≤ (0xFFF#12 : Addr).toNat ∧ (0x04F#12 : Addr).toNat < 0x050 := by decide
theorem witness_InstructionsWriteOnlyWhatTheSpecNames : ∃ t, exec .cls State.reset = .next t := ⟨_, rfl⟩
theorem witness_VfIsWrittenOnlyAsFlagOrDestination :
    ∃ t, step (((at200 0x8124).setV 1 0xF0).setV 2 0x20) = .next t
      ∧ t.getV 15 ≠ (((at200 0x8124).setV 1 0xF0).setV 2 0x20).getV 15 := ⟨_, rfl, by decide⟩
theorem witness_EveryStepKeepsTheInvariant :
    coreInv (at200 0x1200) ∧ ∃ t, step (at200 0x1200) = .next t :=
  ⟨⟨by decide, by show toneReplay _ _ = _; decide⟩, _, rfl⟩
theorem witness_EveryHostOperationKeepsTheInvariant :
    coreInv (at200 0x1200) ∧ ∃ t r, runHostOp 1 .advanceFrame (at200 0x1200) = .next (t, r) :=
  ⟨⟨by decide, by show toneReplay _ _ = _; decide⟩, _, _, rfl⟩

end Sys2Proof.Tests
end

section
/-! PROOF. The frame rules: what one update of the state leaves unchanged, as rewrite rules for `unchangedExcept` and `regsExcept`. -/

namespace Sys2Proof

open Sys2Proof.Machine

variable {L : List Item} {R : List RegIdx} {s t u : State}

/-! ### The frame relation -/

theorem Item.same_refl (item : Item) (s : State) : item.same s s := by
  cases item <;> simp [Item.same]

theorem Item.same_trans {item : Item} (h : item.same s t) (h' : item.same t u) : item.same s u := by
  cases item with
  | v => exact fun r => (h' r).trans (h r)
  | fb => exact fun r c => (h' r c).trans (h r c)
  | mem => exact fun a => (h' a).trans (h a)
  | _ => exact Eq.trans h' h

@[simp] theorem unchangedExcept_refl (L : List Item) (s : State) : unchangedExcept L s s :=
  fun item _ => item.same_refl s

theorem unchangedExcept.trans (h : unchangedExcept L s t) (h' : unchangedExcept L t u) : unchangedExcept L s u :=
  fun item hi => Item.same_trans (h item hi) (h' item hi)

theorem unchangedExcept.mono {L' : List Item} (h : unchangedExcept L s t) (hl : L ⊆ L') : unchangedExcept L' s t :=
  fun item hi => h item fun hm => hi (hl hm)

/-- Where the registers are not in the list, none of them changes. -/
theorem unchangedExcept.regsExcept (h : unchangedExcept L s t) (hv : Item.v ∉ L) : regsExcept R s t :=
  fun r _ => h .v hv r

/-- A change of one listed item alone does not show outside the list. -/
theorem unchangedExcept_update {k : Item} (hk : k ∈ L) (h : ∀ item ≠ k, item.same s u ↔ item.same s t) :
    unchangedExcept L s u ↔ unchangedExcept L s t :=
  forall_congr' fun item => imp_congr_right fun hi => h item fun he => hi (he ▸ hk)

/-! ### One rule per update

In each proof the changed item is excluded by `hne`, and every other item reads the same by definition. -/

@[simp] theorem unchangedExcept_setV {r : RegIdx} {b : Byte} (hL : Item.v ∈ L) :
    unchangedExcept L s (t.setV r b) ↔ unchangedExcept L s t :=
  unchangedExcept_update hL fun item hne => by cases item <;> trivial

@[simp] theorem unchangedExcept_setRegs {w : Vector Byte 16} (hL : Item.v ∈ L) :
    unchangedExcept L s (t.setRegs w) ↔ unchangedExcept L s t :=
  unchangedExcept_update hL fun item hne => by cases item <;> trivial

@[simp] theorem unchangedExcept_setI {a : Addr} (hL : Item.i ∈ L) :
    unchangedExcept L s (t.setI a) ↔ unchangedExcept L s t :=
  unchangedExcept_update hL fun item hne => by cases item <;> trivial

@[simp] theorem unchangedExcept_setPc {a : Addr} (hL : Item.pc ∈ L) :
    unchangedExcept L s (t.setPc a) ↔ unchangedExcept L s t :=
  unchangedExcept_update hL fun item hne => by cases item <;> trivial

@[simp] theorem unchangedExcept_setSlot {k : Fin 16} {a : Addr} (hL : Item.stack ∈ L) :
    unchangedExcept L s (t.setSlot k a) ↔ unchangedExcept L s t :=
  unchangedExcept_update hL fun item hne => by cases item <;> trivial

@[simp] theorem unchangedExcept_setSp {n : Fin 17} (hL : Item.sp ∈ L) :
    unchangedExcept L s (t.setSp n) ↔ unchangedExcept L s t :=
  unchangedExcept_update hL fun item hne => by cases item <;> trivial

@[simp] theorem unchangedExcept_setDt {b : Byte} (hL : Item.dt ∈ L) :
    unchangedExcept L s (t.setDt b) ↔ unchangedExcept L s t :=
  unchangedExcept_update hL fun item hne => by cases item <;> trivial

@[simp] theorem unchangedExcept_setSt {b : Byte} (hL : Item.st ∈ L) :
    unchangedExcept L s (t.setSt b) ↔ unchangedExcept L s t :=
  unchangedExcept_update hL fun item hne => by cases item <;> trivial

@[simp] theorem unchangedExcept_setFb {g : FrameBuffer} (hL : Item.fb ∈ L) :
    unchangedExcept L s (t.setFb g) ↔ unchangedExcept L s t :=
  unchangedExcept_update hL fun item hne => by cases item <;> trivial

@[simp] theorem unchangedExcept_setDraw {d : Bool} (hL : Item.draw ∈ L) :
    unchangedExcept L s (t.setDraw d) ↔ unchangedExcept L s t :=
  unchangedExcept_update hL fun item hne => by cases item <;> trivial

@[simp] theorem unchangedExcept_setMem {m : Memory} (hL : Item.mem ∈ L) :
    unchangedExcept L s (t.setMem m) ↔ unchangedExcept L s t :=
  unchangedExcept_update hL fun item hne => by cases item <;> trivial

@[simp] theorem unchangedExcept_emitTone {e : ToneEdge} (hL : Item.tone ∈ L) :
    unchangedExcept L s (t.emitTone e) ↔ unchangedExcept L s t :=
  unchangedExcept_update hL fun item hne => by cases item <;> trivial

@[simp] theorem unchangedExcept_emitDiag {e : DiagEvent} (hL : Item.diag ∈ L) :
    unchangedExcept L s (t.emitDiag e) ↔ unchangedExcept L s t :=
  unchangedExcept_update hL fun item hne => by cases item <;> trivial

@[simp] theorem unchangedExcept_countDraw (hL : Item.draws ∈ L) :
    unchangedExcept L s t.countDraw ↔ unchangedExcept L s t :=
  unchangedExcept_update hL fun item hne => by cases item <;> trivial

/-- The status is no item of the spec's state. -/
@[simp] theorem unchangedExcept_setStatus {c : Status} :
    unchangedExcept L s (t.setStatus c) ↔ unchangedExcept L s t :=
  forall_congr' fun item => imp_congr_right fun _ => by cases item <;> exact Iff.rfl

/-! ### The updates made of these -/

@[simp] theorem unchangedExcept_writeByte {a : Addr} {b : Byte} (hL : Item.mem ∈ L) :
    unchangedExcept L s (t.writeByte a b) ↔ unchangedExcept L s t :=
  unchangedExcept_setMem hL

@[simp] theorem unchangedExcept_advancePc (hL : Item.pc ∈ L) :
    unchangedExcept L s t.advancePc ↔ unchangedExcept L s t :=
  unchangedExcept_setPc hL

@[simp] theorem unchangedExcept_writeFlagged {x : RegIdx} {b : Byte} {f : Bool} (hL : Item.v ∈ L) :
    unchangedExcept L s (t.writeFlagged x b f) ↔ unchangedExcept L s t := by
  simp [State.writeFlagged, hL]

@[simp] theorem unchangedExcept_writeSt {b : Byte} (hst : Item.st ∈ L) (htone : Item.tone ∈ L) :
    unchangedExcept L s (t.writeSt b) ↔ unchangedExcept L s t := by
  obtain ⟨-, -, h⟩ | ⟨-, -, h⟩ | ⟨-, h⟩ := t.writeSt_cases b <;> simp [h, hst, htone]

/-! ### General registers -/

theorem regsExcept_setV (s : State) (x : RegIdx) (b : Byte) : regsExcept [x] s (s.setV x b) := by
  intro r hr
  rw [State.getV_setV, if_neg (by simpa using hr)]

theorem regsExcept_writeFlagged (s : State) (x : RegIdx) (b : Byte) (f : Bool) :
    regsExcept [x, vF] s (s.writeFlagged x b f) := by
  intro r hr
  obtain ⟨hx, hF⟩ : r ≠ x ∧ r ≠ vF := by simpa using hr
  rw [State.getV_writeFlagged, if_neg hx, if_neg hF]

/-- Loading V0..Vx leaves the registers above Vx (42_index_memory.md R84). -/
theorem regsExcept_loadBlock (s : State) (m : Memory) (base : Addr) (x : RegIdx) :
    regsExcept (Instr.loadRegs x).destRegs s (s.setRegs (loadBlock m base (x.val + 1) s.v)) := by
  intro r hr
  have hxr : ¬ r ≤ x := by simpa [Instr.destRegs] using hr
  simp only [State.getV, State.setRegs_v]
  rw [getElem_loadBlock _ _ _ (by omega) r.isLt, if_neg fun hlt => hxr (Nat.lt_succ_iff.mp hlt)]

end Sys2Proof
end

section
/-! PROOF. What one instruction, one step, the steps of a frame, and the tick can do: one inversion lemma each. -/

namespace Sys2Proof.Machine

/-- No key is the least pressed one exactly when none is pressed (44_keys_timers.md R90). -/
theorem State.leastPressed_eq_none_iff {s : State} :
    s.leastPressed = none ↔ ∀ k : Fin 16, s.key[k.val] = false := by
  simp [State.leastPressed, State.pressed]

end Sys2Proof.Machine

namespace Sys2Proof

open Sys2Proof.Machine

variable {s t : State} {i : Instr}

/-! ### Instructions whose ending depends on the state -/

theorem exec_call_of_room (nnn : Addr) (h : s.sp.val < 16) :
    exec (.call nnn) s
      = executed (((s.setSlot ⟨s.sp.val, h⟩ s.pc).setSp ⟨s.sp.val + 1, by omega⟩).setPc nnn) := by
  simp only [exec, execCall, State.push_of_room s s.pc h]

theorem exec_call_full (nnn : Addr) (h : s.sp.val = 16) :
    exec (.call nnn) s = raiseDiagnostic .stackOverflow s.instrAddr (encode (.call nnn)) s := by
  simp only [exec, execCall, State.push_full s s.pc h]

theorem exec_ret_of_held (h : 0 < s.sp.val) :
    exec .ret s
      = executed ((s.setSp ⟨s.sp.val - 1, by omega⟩).setPc (s.stack[s.sp.val - 1]'(by omega))) := by
  simp only [exec, execRet, State.pop_of_held s h]

theorem exec_ret_empty (h : s.sp.val = 0) :
    exec .ret s = raiseDiagnostic .stackUnderflow s.instrAddr (encode .ret) s := by
  simp only [exec, execRet, State.pop_empty s h]

theorem exec_ldVxK_of_pressed (x : RegIdx) {k : KeyIdx} (h : s.leastPressed = some k) :
    exec (.ldVxK x) s = executed (s.setV x (BitVec.ofNat 8 k.val)) := by
  simp only [exec, execLdVxK, h]

theorem exec_ldVxK_blocks (x : RegIdx) (h : s.leastPressed = none) : exec (.ldVxK x) s = block s := by
  simp only [exec, execLdVxK, h]

/-! ### One instruction -/

/-- Why an instruction raises a diagnostic of this kind (60_exceptions.md R95). -/
inductive DiagCause : DiagKind → Instr → State → Prop where
  | sys (nnn : Addr) (s : State) : DiagCause .unknownOpcode (.sys nnn) s
  | call (nnn : Addr) {s : State} (full : s.sp.val = 16) : DiagCause .stackOverflow (.call nnn) s
  | ret {s : State} (empty : s.sp.val = 0) : DiagCause .stackUnderflow .ret s

/-- What separates `u` from `s` is what a completed `i` may write; completing raises no diagnostic. -/
def Instr.writesWithin (i : Instr) (s u : State) : Prop :=
  u.diag = s.diag ∧ unchangedExcept i.mayWrite s u ∧ regsExcept i.destRegs s u

/-- For an instruction that writes no register, the frame over the items says it all. -/
theorem Instr.writesWithin_of_no_reg {u : State} (hd : u.diag = s.diag) (hf : unchangedExcept i.mayWrite s u)
    (hv : Item.v ∉ i.mayWrite := by simp [Instr.mayWrite]) : i.writesWithin s u :=
  ⟨hd, hf, hf.regsExcept hv⟩

/-- Everything an instruction can do: complete within its frame, raise a diagnostic for its cause, or block. -/
theorem exec_cases (i : Instr) (s : State) :
    (∃ u, exec i s = executed u ∧ i.writesWithin s u)
    ∨ (∃ kind, exec i s = raiseDiagnostic kind s.instrAddr (encode i) s ∧ DiagCause kind i s)
    ∨ (∃ x, i = .ldVxK x ∧ s.leastPressed = none ∧ exec i s = block s) := by
  cases i with
  | sys nnn => exact .inr (.inl ⟨_, rfl, .sys nnn s⟩)
  | ret =>
    by_cases h : s.sp.val = 0
    · exact .inr (.inl ⟨_, exec_ret_empty h, .ret h⟩)
    · exact .inl ⟨_, exec_ret_of_held (Nat.pos_of_ne_zero h),
        Instr.writesWithin_of_no_reg rfl (by simp [Instr.mayWrite])⟩
  | call nnn =>
    by_cases h : s.sp.val = 16
    · exact .inr (.inl ⟨_, exec_call_full nnn h, .call nnn h⟩)
    · exact .inl ⟨_, exec_call_of_room nnn (by omega),
        Instr.writesWithin_of_no_reg rfl (by simp [Instr.mayWrite])⟩
  | ldVxK x =>
    cases h : s.leastPressed with
    | none => exact .inr (.inr ⟨x, rfl, rfl, exec_ldVxK_blocks x h⟩)
    | some k => exact .inl ⟨_, exec_ldVxK_of_pressed x h, rfl, by simp [Instr.mayWrite], regsExcept_setV s x _⟩
  | ldImm x _ | addImm x _ | ldReg x _ | orReg x _ | andReg x _ | xorReg x _ | ldVxDt x =>
    exact .inl ⟨_, rfl, rfl, by simp [Instr.mayWrite], regsExcept_setV s x _⟩
  | rnd x _ => exact .inl ⟨_, rfl, rfl, by simp [Instr.mayWrite], regsExcept_setV s.countDraw x _⟩
  | addReg x _ | subReg x _ | shr x _ | subn x _ | shl x _ =>
    exact .inl ⟨_, rfl, rfl, by simp [Instr.mayWrite], regsExcept_writeFlagged s x _ _⟩
  | drw => exact .inl ⟨_, rfl, rfl, by simp [Instr.mayWrite], regsExcept_setV s vF _⟩
  | loadRegs x => exact .inl ⟨_, rfl, rfl, by simp [Instr.mayWrite], regsExcept_loadBlock s _ _ x⟩
  | seImm | sneImm | seReg | sneReg | skp | sknp =>
    exact .inl ⟨_, rfl, Instr.writesWithin_of_no_reg (by split <;> rfl) (by split <;> simp [Instr.mayWrite])⟩
  | ldStVx x =>
    refine .inl ⟨_, rfl, Instr.writesWithin_of_no_reg ?_ (by simp [Instr.mayWrite])⟩
    obtain ⟨-, -, h⟩ | ⟨-, -, h⟩ | ⟨-, h⟩ := s.writeSt_cases (s.getV x) <;> rw [h] <;> rfl
  | cls | jp | jpV0 | ldI | addI | ldF | ldDtVx | ldB | storeRegs =>
    exact .inl ⟨_, rfl, Instr.writesWithin_of_no_reg rfl (by simp [Instr.mayWrite])⟩

theorem DiagCause.diag_mem_mayWrite {kind : DiagKind} (h : DiagCause kind i s) : Item.diag ∈ i.mayWrite := by
  cases h <;> simp [Instr.mayWrite]

/-- The frame of every instruction (10_state.md R13 to R25). -/
theorem exec_frame (h : exec i s = .next t) : unchangedExcept i.mayWrite s t ∧ regsExcept i.destRegs s t := by
  obtain ⟨u, he, -, hitems, hregs⟩ | ⟨kind, he, hcause⟩ | ⟨x, rfl, -, he⟩ := exec_cases i s
  · cases he.symm.trans h
    exact ⟨by simpa using hitems, hregs⟩
  · cases he.symm.trans h
    exact ⟨by simp [hcause.diag_mem_mayWrite], fun _ _ => rfl⟩
  · cases he.symm.trans h
    exact ⟨by simp [Instr.mayWrite], fun _ _ => rfl⟩

/-- Of the instructions only FX18 reports a tone edge (10_state.md R24). -/
theorem Instr.tone_mem_mayWrite_iff : Item.tone ∈ i.mayWrite ↔ ∃ x, i = .ldStVx x := by
  cases i <;> simp [Instr.mayWrite]

/-- No instruction writes a key (10_state.md R21). -/
theorem Instr.key_not_mem_mayWrite (i : Instr) : Item.key ∉ i.mayWrite := by
  cases i <;> simp [Instr.mayWrite]

/-- The instructions with VF among their destination registers (10_state.md R14). -/
theorem Instr.vF_mem_destRegs_cases (h : vF ∈ i.destRegs) :
    (∃ x y, i ∈ [Instr.addReg x y, .subReg x y, .shr x y, .subn x y, .shl x y])
    ∨ (∃ x y n, i = .drw x y n)
    ∨ (∃ nn y, i ∈ [Instr.ldImm 15 nn, .addImm 15 nn, .ldReg 15 y, .orReg 15 y, .andReg 15 y,
        .xorReg 15 y, .rnd 15 nn, .ldVxDt 15, .ldVxK 15, .loadRegs 15]) := by
  cases i with
  | addReg x y | subReg x y | shr x y | subn x y | shl x y => exact .inl ⟨x, y, by simp⟩
  | drw x y n => exact .inr (.inl ⟨x, y, n, rfl⟩)
  | ldImm x nn | addImm x nn | rnd x nn =>
    obtain rfl : vF = x := by simpa [Instr.destRegs] using h
    exact .inr (.inr ⟨nn, 0, by simp⟩)
  | ldReg x y | orReg x y | andReg x y | xorReg x y =>
    obtain rfl : vF = x := by simpa [Instr.destRegs] using h
    exact .inr (.inr ⟨0, y, by simp⟩)
  | ldVxDt x | ldVxK x =>
    obtain rfl : vF = x := by simpa [Instr.destRegs] using h
    exact .inr (.inr ⟨0, 0, by simp⟩)
  | loadRegs x =>
    have hle : vF ≤ x := by simpa [Instr.destRegs] using h
    obtain rfl : vF = x := le_antisymm hle (Fin.le_last x)
    exact .inr (.inr ⟨0, 0, by simp⟩)
  | _ => simp [Instr.destRegs] at h

/-- Only FX18 writes the tone stream, and it appends (44_keys_timers.md R93). -/
theorem exec_tone (h : exec i s = .next t) : ∃ e, t.tone = s.tone ++ e := by
  by_cases hw : Item.tone ∈ i.mayWrite
  · obtain ⟨x, rfl⟩ := Instr.tone_mem_mayWrite_iff.mp hw
    cases h
    obtain ⟨-, -, he⟩ | ⟨-, -, he⟩ | ⟨-, he⟩ := s.writeSt_cases (s.getV x)
    · exact ⟨[.start], by simp [he]⟩
    · exact ⟨[.stop], by simp [he]⟩
    · exact ⟨[], by simp [he]⟩
  · exact ⟨[], ((exec_frame h).1 .tone hw).trans (List.append_nil _).symm⟩

/-- An instruction appends at most one diagnostic event. -/
theorem exec_diag (h : exec i s = .next t) : ∃ d, t.diag = s.diag ++ d ∧ d.length ≤ 1 := by
  obtain ⟨u, he, hdiag, -⟩ | ⟨kind, he, -⟩ | ⟨x, -, -, he⟩ := exec_cases i s
  · cases he.symm.trans h
    exact ⟨[], by simpa using hdiag, by simp⟩
  · cases he.symm.trans h
    exact ⟨[⟨kind, s.instrAddr, encode i⟩], rfl, by simp⟩
  · cases he.symm.trans h
    exact ⟨[], by simp, by simp⟩

theorem exec_key (h : exec i s = .next t) : t.key = s.key :=
  (exec_frame h).1 .key i.key_not_mem_mayWrite

/-! ### One step -/

/-- A step runs the decoded instruction, or diagnoses an unknown word (30_encoding.md R47). -/
theorem step_cases (h : step s = .next t) :
    (∃ i, decodeWord (s.fetch16 s.pc) = .ok i ∧ exec i s.advancePc = .next t)
    ∨ ((∃ e, decodeWord (s.fetch16 s.pc) = .error e)
      ∧ t = (s.advancePc.emitDiag ⟨.unknownOpcode, s.pc, s.fetch16 s.pc⟩).setStatus (.diagnosed .unknownOpcode)) := by
  cases hd : decodeWord (s.fetch16 s.pc) with
  | ok i => exact .inl ⟨i, rfl, (step_of_decoded hd).symm.trans h⟩
  | error e =>
    cases (step_of_unknown hd).symm.trans h
    exact .inr ⟨⟨e, rfl⟩, rfl⟩

theorem step_key (h : step s = .next t) : t.key = s.key := by
  obtain ⟨i, -, he⟩ | ⟨-, rfl⟩ := step_cases h
  · simpa using exec_key he
  · rfl

theorem step_tone (h : step s = .next t) : ∃ e, t.tone = s.tone ++ e := by
  obtain ⟨i, -, he⟩ | ⟨-, rfl⟩ := step_cases h
  · simpa using exec_tone he
  · exact ⟨[], by simp⟩

theorem step_diag (h : step s = .next t) : ∃ d, t.diag = s.diag ++ d ∧ d.length ≤ 1 := by
  obtain ⟨i, -, he⟩ | ⟨-, rfl⟩ := step_cases h
  · simpa using exec_diag he
  · exact ⟨[⟨.unknownOpcode, s.pc, s.fetch16 s.pc⟩], by simp, by simp⟩

/-- At an FX0A with no key pressed a step sets the status and nothing else: PC goes back to the FX0A (44_keys_timers.md R90). -/
theorem step_keyWait {x : RegIdx} (hd : decodeWord (s.fetch16 s.pc) = .ok (.ldVxK x))
    (hk : ∀ k : Fin 16, s.key[k.val] = false) : step s = .next (s.setStatus .blocked) := by
  have hnone : s.advancePc.leastPressed = none := State.leastPressed_eq_none_iff.mpr hk
  have hpc : s.pc + 2#12 - 2#12 = s.pc := BitVec.add_sub_cancel _ _
  rw [step_of_decoded hd, exec_ldVxK_blocks x hnone, block_eq, State.advancePc_pc, hpc]
  rfl

/-- A blocked step is a key wait (30_encoding.md R50). -/
theorem keyWait_of_step_blocked (h : step s = .next t) (hb : t.status = .blocked) :
    (∃ x, decodeWord (s.fetch16 s.pc) = .ok (.ldVxK x)) ∧ ∀ k : Fin 16, s.key[k.val] = false := by
  obtain ⟨i, hd, he⟩ | ⟨-, rfl⟩ := step_cases h
  · obtain ⟨u, hu, -⟩ | ⟨kind, hu, -⟩ | ⟨x, rfl, hnone, -⟩ := exec_cases i s.advancePc
    · cases hu.symm.trans he
      simp at hb
    · cases hu.symm.trans he
      simp at hb
    · exact ⟨⟨x, hd⟩, State.leastPressed_eq_none_iff.mp hnone⟩
  · simp at hb

/-! ### The steps of a frame -/

/-- Induction over the steps of a frame: a relation that holds over no step and extends by a step in front holds over up to n steps. -/
theorem runSteps_induction {P : Nat → State → State → Prop} (refl : ∀ n s, P n s s)
    (head : ∀ n s t u, step s = .next t → P n t u → P (n + 1) s u) {n : Nat} (h : runSteps n s = .next t) :
    P n s t := by
  induction n generalizing s with
  | zero =>
    cases h
    exact refl 0 t
  | succ n ih =>
    cases hs : step s with
    | next u =>
      simp only [runSteps, hs] at h
      split at h
      · cases h
        exact head n s t t hs (refl n t)
      · exact head n s u t hs (ih h)
    | fault r => cases r
    | refused r => simp [runSteps, hs] at h

theorem advanceFrame_cases {ipf : Nat} (h : advanceFrame ipf s = .next t) :
    ∃ u, runSteps ipf s = .next u ∧ t = tick u := by
  unfold advanceFrame at h
  split at h
  · next u hu =>
    cases h
    exact ⟨u, hu, rfl⟩
  · cases h
  · cases h

theorem runSteps_key {n : Nat} (h : runSteps n s = .next t) : t.key = s.key :=
  runSteps_induction (P := fun _ s t => t.key = s.key) (fun _ _ => rfl)
    (fun _ _ _ _ hs ht => ht.trans (step_key hs)) h

theorem runSteps_tone {n : Nat} (h : runSteps n s = .next t) : ∃ e, t.tone = s.tone ++ e := by
  refine runSteps_induction (P := fun _ s t => ∃ e, t.tone = s.tone ++ e) (fun _ s => ⟨[], by simp⟩) ?_ h
  rintro n s t u hs ⟨e', he'⟩
  obtain ⟨e, he⟩ := step_tone hs
  exact ⟨e ++ e', by rw [he', he, List.append_assoc]⟩

theorem runSteps_diag {n : Nat} (h : runSteps n s = .next t) : ∃ d, t.diag = s.diag ++ d ∧ d.length ≤ n := by
  refine runSteps_induction (P := fun n s t => ∃ d, t.diag = s.diag ++ d ∧ d.length ≤ n)
    (fun _ s => ⟨[], by simp⟩) ?_ h
  rintro n s t u hs ⟨d', hd', hlen'⟩
  obtain ⟨d, hd, hlen⟩ := step_diag hs
  exact ⟨d ++ d', by rw [hd', hd, List.append_assoc], by rw [List.length_append]; omega⟩

/-! ### The tick -/

@[simp] theorem tickDelay_dt (s : State) : (tickDelay s).dt.toNat = s.dt.toNat - 1 := by
  obtain ⟨hpos, h⟩ | ⟨hzero, h⟩ := tickDelay_cases s
  · rw [h, State.setDt_dt]
    bv_omega
  · simp [h, hzero]

theorem tickDelay_frame (s : State) : unchangedExcept [.dt] s (tickDelay s) := by
  obtain ⟨-, h⟩ | ⟨-, h⟩ := tickDelay_cases s <;> simp [h]

@[simp] theorem tickDelay_st (s : State) : (tickDelay s).st = s.st := tickDelay_frame s .st (by simp)

@[simp] theorem tickDelay_tone (s : State) : (tickDelay s).tone = s.tone := tickDelay_frame s .tone (by simp)

@[simp] theorem tickSound_st (s : State) : (tickSound s).st.toNat = s.st.toNat - 1 := by
  obtain ⟨hone, h⟩ | ⟨hgt, h⟩ | ⟨hzero, h⟩ := tickSound_cases s
  · simp [h, hone]
  · rw [h, State.setSt_st]
    bv_omega
  · simp [h, hzero]

@[simp] theorem tickSound_tone (s : State) :
    (tickSound s).tone = s.tone ++ (if s.st = 1#8 then [ToneEdge.stop] else []) := by
  obtain ⟨hone, h⟩ | ⟨hgt, h⟩ | ⟨hzero, h⟩ := tickSound_cases s
  · simp [h, hone]
  · have hne : s.st ≠ 1#8 := by bv_omega
    simp [h, hne]
  · simp [h, hzero]

theorem tickSound_frame (s : State) : unchangedExcept [.st, .tone] s (tickSound s) := by
  obtain ⟨-, h⟩ | ⟨-, h⟩ | ⟨-, h⟩ := tickSound_cases s <;> simp [h]

/-- The tick writes the timers and the tone stream, and nothing else (60_exceptions.md R103). -/
theorem tick_frame (s : State) : unchangedExcept [.dt, .st, .tone] s (tick s) :=
  ((tickDelay_frame s).mono (by simp)).trans ((tickSound_frame _).mono (by simp))

@[simp] theorem tick_dt (s : State) : (tick s).dt.toNat = s.dt.toNat - 1 := by
  have h : (tick s).dt = (tickDelay s).dt := tickSound_frame (tickDelay s) .dt (by simp)
  rw [h, tickDelay_dt]

@[simp] theorem tick_st (s : State) : (tick s).st.toNat = s.st.toNat - 1 := by
  rw [tick, tickSound_st, tickDelay_st]

@[simp] theorem tick_tone (s : State) :
    (tick s).tone = s.tone ++ (if s.st = 1#8 then [ToneEdge.stop] else []) := by
  rw [tick, tickSound_tone, tickDelay_tone, tickDelay_st]

theorem tick_key (s : State) : (tick s).key = s.key := tick_frame s .key (by simp)

theorem tick_diag (s : State) : (tick s).diag = s.diag := tick_frame s .diag (by simp)

end Sys2Proof
end

section
/-! PROOF. The statements of the family 10_state.md. -/

namespace Sys2Proof

open Sys2Proof.Machine

/-- Settles O10: a blocked step is a key wait, and a step at a key wait sets the status alone. -/
theorem blockedStepIsAnUnsatisfiedKeyWait : Obligations.BlockedStepIsAnUnsatisfiedKeyWait := by
  intro s t h
  have hwait {x : RegIdx} (hd : decodeWord (s.fetch16 s.pc) = .ok (.ldVxK x))
      (hk : ∀ k : Fin 16, s.key[k.val] = false) : t = s.setStatus .blocked := by
    cases (step_keyWait hd hk).symm.trans h
    rfl
  refine ⟨⟨keyWait_of_step_blocked h, ?_⟩, fun hb => ?_⟩
  · rintro ⟨⟨x, hd⟩, hk⟩
    simp [hwait hd hk]
  · obtain ⟨⟨x, hd⟩, hk⟩ := keyWait_of_step_blocked h hb
    simp [hwait hd hk]

/-- Settles O15: RET pops the slot the CALL pushed. -/
theorem retAfterCallReturnsBehindTheCall : Obligations.RetAfterCallReturnsBehindTheCall := by
  intro s t nnn b hroom h
  cases (exec_call_of_room nnn hroom).symm.trans h
  exact ⟨_, exec_ret_of_held (Nat.succ_pos _), by simp, by simp⟩

/-- Settles O45, by induction over the steps of the frame. -/
theorem keysAreConstantInAFrame : Obligations.KeysAreConstantInAFrame := by
  intro ipf s t h
  obtain ⟨u, hu, rfl⟩ := advanceFrame_cases h
  rw [tick_key, runSteps_key hu]

/-- Settles O46: the first step blocks and ends the steps of the frame; the tick is left. -/
theorem blockedFrameOnlyTicks : Obligations.BlockedFrameOnlyTicks := by
  intro ipf s x hipf hd hk
  obtain ⟨n, rfl⟩ : ∃ n, ipf = n + 1 := ⟨ipf - 1, by omega⟩
  have hrun : runSteps (n + 1) s = .next (s.setStatus .blocked) := by
    simp [runSteps, step_keyWait hd hk]
  have hframe : unchangedExcept [.dt, .st, .tone] s (s.setStatus .blocked) := by simp
  exact ⟨tick (s.setStatus .blocked), by simp only [advanceFrame, hrun], by simp, by simp, tick_tone _,
    hframe.trans (tick_frame _)⟩

/-- Settles O48, by induction over the steps of the frame; the tick appends at most one edge and no diagnostic. -/
theorem streamsOnlyGrowInAFrame : Obligations.StreamsOnlyGrowInAFrame := by
  intro ipf s t h
  obtain ⟨u, hu, rfl⟩ := advanceFrame_cases h
  obtain ⟨e, he⟩ := runSteps_tone hu
  rw [tick_diag, tick_tone, he, List.append_assoc]
  exact ⟨runSteps_diag hu, _, rfl⟩

/-- Settles O54: the frame of every instruction. -/
theorem instructionsWriteOnlyWhatTheSpecNames : Obligations.InstructionsWriteOnlyWhatTheSpecNames :=
  fun _ _ _ h => exec_frame h

/-- Settles O55: a step that changes VF runs an instruction with VF among its destinations. -/
theorem vfIsWrittenOnlyAsFlagOrDestination : Obligations.VfIsWrittenOnlyAsFlagOrDestination := by
  intro s t h hne
  obtain ⟨i, hd, he⟩ | ⟨-, rfl⟩ := step_cases h
  · have hmem : vF ∈ i.destRegs := by
      by_contra hnot
      exact hne ((exec_frame he).2 vF hnot)
    exact ⟨i, hd, Instr.vF_mem_destRegs_cases hmem⟩
  · exact absurd rfl hne

/-- Settles O52: the fields of `State.reset`; the empty list of cells reads as the font and zeros. -/
theorem resetHoldsTheStatedValues : Obligations.ResetHoldsTheStatedValues := by
  refine ⟨fun r => ?_, rfl, rfl, rfl, fun k => ?_, rfl, rfl, fun k => ?_, fun r c => ?_, rfl, rfl, rfl, rfl,
    by decide, fun a ha => ?_⟩
  · simp [State.getV, State.reset]
  · simp [State.reset]
  · simp [State.reset]
  · exact FrameBuffer.pixel_blank r c
  · exact List.getD_eq_default _ _ ha

/-- Settles O57: nothing is listed, no edge is reported, and ST is 0. -/
theorem resetMeetsTheInvariant : Obligations.ResetMeetsTheInvariant :=
  ⟨Memory.wf_reset, rfl⟩

end Sys2Proof
end

section
/-! PROOF. The decoder undoes the encoder, on every well-formed instruction. -/

namespace Sys2Proof

theorem packNnn_inj {op : BitVec 4} {nnn nnn' : Addr} (h : packNnn op nnn = packNnn op nnn') : nnn = nnn' := by
  simpa using congrArg fieldNnn h

/-- `SYS nnn` with a well-formed operand is read as SYS, not as CLS or RET (30_encoding.md R49). -/
theorem decodeWord_sys {nnn : Addr} (hcls : nnn ≠ 0x0E0#12) (hret : nnn ≠ 0x0EE#12) :
    decodeWord (packNnn 0x0#4 nnn) = .ok (.sys nnn) := by
  have hcls' : packNnn 0x0#4 nnn ≠ 0x00E0#16 := fun h => hcls (packNnn_inj (nnn' := 0x0E0#12) h)
  have hret' : packNnn 0x0#4 nnn ≠ 0x00EE#16 := fun h => hret (packNnn_inj (nnn' := 0x0EE#12) h)
  simp [decodeWord, hcls', hret']

/-- The decoder reads the word of a well-formed instruction back as that instruction (30_encoding.md R49, R55). -/
theorem decodeWord_encode {i : Instr} (hi : i.wf = true) : decodeWord (encode i) = .ok i := by
  cases i with
  | sys nnn =>
    obtain ⟨hcls, hret⟩ : nnn ≠ 0x0E0#12 ∧ nnn ≠ 0x0EE#12 := by simpa [Instr.wf] using hi
    exact decodeWord_sys hcls hret
  | cls | ret => rfl
  | jp | call | ldI | jpV0 => simp [decodeWord, encode]
  | seImm | sneImm | ldImm | addImm | rnd | drw => simp [decodeWord, encode]
  | seReg | sneReg => simp [decodeWord, decodeN0, encode]
  | ldReg | orReg | andReg | xorReg | addReg | subReg | shr | subn | shl => simp [decodeWord, decode8, encode]
  | skp | sknp => simp [decodeWord, decodeE, encode]
  | ldVxDt | ldVxK | ldDtVx | ldStVx | addI | ldF | ldB | storeRegs | loadRegs =>
    simp [decodeWord, decodeF, encode]

end Sys2Proof
end

section
/-! PROOF. The canonical form of memory is unique; the word a block store leaves in memory. -/

namespace Sys2Proof.Machine

/-! ### Canonical memories -/

theorem Memory.wfFrom_cons_iff {lo k : Nat} {b : Byte} {rest : Memory} :
    Memory.wfFrom lo ((k, b) :: rest) = true
      ↔ lo ≤ k ∧ k < 4096 ∧ b ≠ unlistedByte k ∧ Memory.wfFrom (k + 1) rest = true := by
  simp [Memory.wfFrom, and_assoc]

/-- Below the least address a canonical list may hold, nothing is listed. -/
theorem Memory.read_of_lt_wfFrom {lo a : Nat} {m : Memory} (h : Memory.wfFrom lo m = true) (ha : a < lo) :
    Memory.read m a = unlistedByte a := by
  induction m generalizing lo with
  | nil => rfl
  | cons cell rest ih =>
    obtain ⟨k, b⟩ := cell
    obtain ⟨hlo, -, -, hrest⟩ := Memory.wfFrom_cons_iff.mp h
    rw [Memory.read, if_neg (by omega), ih hrest (by omega)]

/-- The first cell of a canonical list is seen: a list whose cells all lie above it reads otherwise at its address. -/
theorem Memory.read_cons_ne_of_wfFrom {lo k : Nat} {b : Byte} {rest m : Memory}
    (h : Memory.wfFrom lo ((k, b) :: rest) = true) (hm : Memory.wfFrom (k + 1) m = true) :
    Memory.read ((k, b) :: rest) k ≠ Memory.read m k := by
  obtain ⟨-, -, hb, -⟩ := Memory.wfFrom_cons_iff.mp h
  rwa [Memory.read, if_pos rfl, Memory.read_of_lt_wfFrom hm (Nat.lt_succ_self k)]

/-- Two canonical lists that read alike at the first cell of one: the other starts no higher. -/
theorem Memory.head_le_of_read_eq {lo lo' k k' : Nat} {b b' : Byte} {rest rest' : Memory}
    (h : Memory.wfFrom lo ((k, b) :: rest) = true) (h' : Memory.wfFrom lo' ((k', b') :: rest') = true)
    (hread : Memory.read ((k, b) :: rest) k = Memory.read ((k', b') :: rest') k) : k' ≤ k := by
  by_contra hlt
  have habove : Memory.wfFrom (k + 1) ((k', b') :: rest') = true :=
    Memory.wfFrom_cons_iff.mpr ⟨by omega, (Memory.wfFrom_cons_iff.mp h').2⟩
  exact Memory.read_cons_ne_of_wfFrom h habove hread

/-- The canonical form is unique: it is determined by the bytes it reads as (20_memory.md R30; the form is the model's choice, log 5). -/
theorem Memory.eq_of_wfFrom_of_read_eq {lo : Nat} {m m' : Memory} (h : Memory.wfFrom lo m = true)
    (h' : Memory.wfFrom lo m' = true) (hread : ∀ a < 4096, Memory.read m a = Memory.read m' a) : m = m' := by
  induction m generalizing lo m' with
  | nil =>
    cases m' with
    | nil => rfl
    | cons cell' rest' =>
      obtain ⟨k', b'⟩ := cell'
      obtain ⟨-, hk', -, -⟩ := Memory.wfFrom_cons_iff.mp h'
      exact absurd (hread k' hk').symm (Memory.read_cons_ne_of_wfFrom h' rfl)
  | cons cell rest ih =>
    obtain ⟨k, b⟩ := cell
    obtain ⟨-, hk, -, hrest⟩ := Memory.wfFrom_cons_iff.mp h
    cases m' with
    | nil => exact absurd (hread k hk) (Memory.read_cons_ne_of_wfFrom h rfl)
    | cons cell' rest' =>
      obtain ⟨k', b'⟩ := cell'
      obtain ⟨-, hk', -, hrest'⟩ := Memory.wfFrom_cons_iff.mp h'
      obtain rfl : k = k' :=
        le_antisymm (Memory.head_le_of_read_eq h' h (hread k' hk').symm) (Memory.head_le_of_read_eq h h' (hread k hk))
      have hbytes : b = b' := by simpa [Memory.read] using hread k hk
      have htails : ∀ a < 4096, Memory.read rest a = Memory.read rest' a := by
        intro a ha
        by_cases hak : k = a
        · have hlt : a < k + 1 := by omega
          rw [Memory.read_of_lt_wfFrom hrest hlt, Memory.read_of_lt_wfFrom hrest' hlt]
        · simpa [Memory.read, hak] using hread a ha
      rw [hbytes, ih hrest hrest' htails]

/-! ### The word a block store leaves -/

/-- A block store of two registers or more leaves the word of V0 and V1 at the block's start (20_memory.md R32, R41). -/
theorem fetch16_of_mem_storeBlock {s t : State} {x : RegIdx} (hx : 1 ≤ x.val)
    (hmem : t.mem = storeBlock s.v s.i (x.val + 1) s.mem) :
    t.fetch16 s.i = wordOfBytes (s.getV 0) (s.getV 1) := by
  have h0 := read_storeBlock_inside s.v s.i s.mem (n := x.val + 1) (k := 0) (by omega) (by omega)
  have h1 := read_storeBlock_inside s.v s.i s.mem (n := x.val + 1) (k := 1) (by omega) (by omega)
  rw [BitVec.add_zero] at h0
  simp only [State.fetch16, State.readByte, hmem]
  rw [h0, h1]
  rfl

end Sys2Proof.Machine
end

section
/-! PROOF. The statements of the family 20_memory.md. -/

namespace Sys2Proof

open Sys2Proof.Machine

/-- Settles O32: the block store leaves the instruction's word at PC, and the decoder reads it back. -/
theorem storedInstructionRunsAtTheNextStep : Obligations.StoredInstructionRunsAtTheNextStep := by
  intro s x i hi hpc hx hbytes
  obtain ⟨h0, h1⟩ : s.getV 0 = (bytesOfWord (encode i)).1 ∧ s.getV 1 = (bytesOfWord (encode i)).2 := by
    simpa [encodeBytes] using hbytes
  refine ⟨_, rfl, step_of_decoded ?_⟩
  simp only [State.setStatus_pc, State.setI_pc, State.setMem_pc, ← hpc]
  rw [fetch16_of_mem_storeBlock hx rfl, h0, h1, wordOfBytes_bytesOfWord, decodeWord_encode hi]

/-- Settles O33: the canonical form is unique, here from address 0 on. -/
theorem canonicalMemoriesThatReadAlikeAreEqual : Obligations.CanonicalMemoriesThatReadAlikeAreEqual := by
  intro m m' hm hm' hread
  refine Memory.eq_of_wfFrom_of_read_eq hm hm' fun a ha => ?_
  simpa [Nat.mod_eq_of_lt ha] using hread (BitVec.ofNat 12 a)

end Sys2Proof
end

section
/-! PROOF. What the decoder answers on every word, in one lemma, and which words it does not know. -/

namespace Sys2Proof

variable {w : Word}

/-! ### A word with known fields is the packed word -/

theorem packNnn_of_op {op : BitVec 4} (hop : (fieldOp w).toNat = op.toNat) : packNnn op (fieldNnn w) = w := by
  rw [← BitVec.eq_of_toNat_eq hop, packNnn_fields]

theorem packXnn_of_op {op : BitVec 4} (hop : (fieldOp w).toNat = op.toNat) :
    packXnn op (fieldX w) (fieldNn w) = w := by
  rw [← BitVec.eq_of_toNat_eq hop, packXnn_fields]

theorem packXnn_of_op_nn {op : BitVec 4} {nn : Byte} (hop : (fieldOp w).toNat = op.toNat)
    (hnn : (fieldNn w).toNat = nn.toNat) : packXnn op (fieldX w) nn = w := by
  rw [← BitVec.eq_of_toNat_eq hnn, packXnn_of_op hop]

theorem packXyn_of_op {op : BitVec 4} (hop : (fieldOp w).toNat = op.toNat) :
    packXyn op (fieldX w) (fieldY w) (fieldN w) = w := by
  rw [← BitVec.eq_of_toNat_eq hop, packXyn_fields]

theorem packXyn_of_op_n {op : BitVec 4} {n : Fin 16} (hop : (fieldOp w).toNat = op.toNat)
    (hn : (fieldN w).val = n.val) : packXyn op (fieldX w) (fieldY w) n = w := by
  rw [← Fin.ext hn, packXyn_of_op hop]

/-! ### The unknown words of one major opcode (30_encoding.md R51) -/

theorem not_unknownWord_of_op (hop : (fieldOp w).toNat ∉ [0x5, 0x8, 0x9, 0xE, 0xF]) : ¬ unknownWord w := by
  rw [fieldOp_toNat] at hop
  simp only [List.mem_cons, not_or] at hop
  simp [unknownWord, hop]

theorem unknownWord_iff_of_n0 (hop : (fieldOp w).toNat = 0x5 ∨ (fieldOp w).toNat = 0x9) :
    unknownWord w ↔ (fieldN w).val ∉ [0x0] := by
  rw [fieldOp_toNat] at hop
  obtain hop | hop := hop <;> simp [unknownWord, hop, fieldN_val]

theorem unknownWord_iff_of_op8 (hop : (fieldOp w).toNat = 0x8) :
    unknownWord w ↔ (fieldN w).val ∉ [0x0, 0x1, 0x2, 0x3, 0x4, 0x5, 0x6, 0x7, 0xE] := by
  rw [fieldOp_toNat] at hop
  have hlisted : unknownWord w ↔ w.toNat % 16 ∈ [0x8, 0x9, 0xA, 0xB, 0xC, 0xD, 0xF] := by simp [unknownWord, hop]
  rw [hlisted, fieldN_val]
  simp only [List.mem_cons, List.not_mem_nil, or_false]
  omega

theorem unknownWord_iff_of_opE (hop : (fieldOp w).toNat = 0xE) :
    unknownWord w ↔ (fieldNn w).toNat ∉ [0x9E, 0xA1] := by
  rw [fieldOp_toNat] at hop
  simp [unknownWord, hop, fieldNn_toNat]

theorem unknownWord_iff_of_opF (hop : (fieldOp w).toNat = 0xF) :
    unknownWord w ↔ (fieldNn w).toNat ∉ [0x07, 0x0A, 0x15, 0x18, 0x1E, 0x29, 0x33, 0x55, 0x65] := by
  rw [fieldOp_toNat] at hop
  simp [unknownWord, hop, fieldNn_toNat]

/-! ### What the decoder answers -/

/-- The two right answers to a word: the well-formed instruction whose word it is, or that it is unknown (30_encoding.md R49, R51). -/
inductive DecodeAnswer (w : Word) : Except DecodeError Instr → Prop where
  | known (i : Instr) (word : encode i = w) (wf : i.wf = true) (notListed : ¬ unknownWord w) :
    DecodeAnswer w (.ok i)
  | unknown (listed : unknownWord w) : DecodeAnswer w (.error (.unknownOpcode w))

theorem decodeN0_answer {i : Instr} (hop : (fieldOp w).toNat = 0x5 ∨ (fieldOp w).toNat = 0x9)
    (hword : (fieldN w).val = 0 → encode i = w) (hi : i.wf = true) : DecodeAnswer w (decodeN0 i w) := by
  unfold decodeN0
  split
  · next hn =>
    have hval : (fieldN w).val = 0 := congrArg Fin.val hn
    exact .known i (hword hval) hi (by rw [unknownWord_iff_of_n0 hop, hval]; decide)
  · next hn => exact .unknown ((unknownWord_iff_of_n0 hop).mpr (by simpa using hn))

theorem decode8_answer (hop : (fieldOp w).toNat = 0x8) : DecodeAnswer w (decode8 w) := by
  unfold decode8
  split
  case h_10 => exact .unknown ((unknownWord_iff_of_op8 hop).mpr (by simp_all))
  all_goals
    next hn => exact .known _ (packXyn_of_op_n hop hn) rfl (by simp [unknownWord_iff_of_op8 hop, hn])

theorem decodeE_answer (hop : (fieldOp w).toNat = 0xE) : DecodeAnswer w (decodeE w) := by
  unfold decodeE
  split
  case h_3 => exact .unknown ((unknownWord_iff_of_opE hop).mpr (by simp_all))
  all_goals
    next hnn => exact .known _ (packXnn_of_op_nn hop hnn) rfl (by simp [unknownWord_iff_of_opE hop, hnn])

theorem decodeF_answer (hop : (fieldOp w).toNat = 0xF) : DecodeAnswer w (decodeF w) := by
  unfold decodeF
  split
  case h_10 => exact .unknown ((unknownWord_iff_of_opF hop).mpr (by simp_all))
  all_goals
    next hnn => exact .known _ (packXnn_of_op_nn hop hnn) rfl (by simp [unknownWord_iff_of_opF hop, hnn])

/-- A word of major opcode 0 other than 00E0 and 00EE is the word of a well-formed SYS (30_encoding.md R49). -/
theorem sys_wf_of_ne (hop : (fieldOp w).toNat = 0x0) (hcls : w ≠ 0x00E0#16) (hret : w ≠ 0x00EE#16) :
    (Instr.sys (fieldNnn w)).wf = true := by
  have hword : packNnn 0x0#4 (fieldNnn w) = w := packNnn_of_op hop
  have hcls' : fieldNnn w ≠ 0x0E0#12 := fun h => hcls (by rw [← hword, h]; rfl)
  have hret' : fieldNnn w ≠ 0x0EE#12 := fun h => hret (by rw [← hword, h]; rfl)
  simp [Instr.wf, hcls', hret']

/-- The decoder's answer to every word is the right one. Case `h_k` is the arm of major opcode k - 1. -/
theorem decodeWord_answer (w : Word) : DecodeAnswer w (decodeWord w) := by
  unfold decodeWord
  split
  case h_1 hop =>
    have hknown : ¬ unknownWord w := not_unknownWord_of_op (by simp [hop])
    split_ifs with hcls hret
    · exact .known .cls hcls.symm rfl hknown
    · exact .known .ret hret.symm rfl hknown
    · exact .known _ (packNnn_of_op hop) (sys_wf_of_ne hop hcls hret) hknown
  case h_2 hop | h_3 hop | h_11 hop | h_12 hop =>
    exact .known _ (packNnn_of_op hop) rfl (not_unknownWord_of_op (by simp [hop]))
  case h_4 hop | h_5 hop | h_7 hop | h_8 hop | h_13 hop =>
    exact .known _ (packXnn_of_op hop) rfl (not_unknownWord_of_op (by simp [hop]))
  case h_14 hop => exact .known _ (packXyn_of_op hop) rfl (not_unknownWord_of_op (by simp [hop]))
  case h_6 hop => exact decodeN0_answer (.inl hop) (packXyn_of_op_n (n := 0) hop) rfl
  case h_10 hop => exact decodeN0_answer (.inr hop) (packXyn_of_op_n (n := 0) hop) rfl
  case h_9 hop => exact decode8_answer hop
  case h_15 hop => exact decodeE_answer hop
  case h_16 =>
    have hlt : (fieldOp w).toNat < 16 := (fieldOp w).isLt
    simp only [imp_false] at *
    exact decodeF_answer (by omega)

/-- An instruction the decoder gives is well-formed, has the word that was decoded, and that word is not listed as unknown. -/
theorem encode_of_decodeWord_ok {i : Instr} (h : decodeWord w = .ok i) :
    encode i = w ∧ i.wf = true ∧ ¬ unknownWord w := by
  cases h ▸ decodeWord_answer w with
  | known _ hword hwf hknown => exact ⟨hword, hwf, hknown⟩

theorem decodeWord_unknown_iff : decodeWord w = .error (.unknownOpcode w) ↔ unknownWord w := by
  constructor
  · intro h
    cases h ▸ decodeWord_answer w with
    | unknown hlisted => exact hlisted
  · intro hlisted
    generalize decodeWord w = r, decodeWord_answer w = ha
    cases ha with
    | known i _ _ hnot => exact absurd hlisted hnot
    | unknown => rfl

end Sys2Proof
end

section
/-! PROOF. How many words of each major opcode are unknown. -/

namespace Sys2Proof

variable {op : Fin 16} {k : Nat}

/-- Of the numbers below `m`, all but the listed ones are outside the list. -/
theorem countP_range_not_mem {m : Nat} {L : List Nat} (hL : L.Nodup) (hlt : ∀ k ∈ L, k < m) :
    (List.range m).countP (fun k => decide (k ∉ L)) = m - L.length := by
  have hperm : ((List.range m).filter (fun k => decide (k ∈ L))).Perm L := by
    refine (List.perm_ext_iff_of_nodup (List.nodup_range.filter _) hL).mpr fun k => ?_
    simpa using hlt k
  have hsplit := List.length_eq_countP_add_countP (fun k => decide (k ∈ L)) (l := List.range m)
  rw [List.countP_eq_length_filter, hperm.length_eq, List.length_range] at hsplit
  simp only [decide_eq_true_eq] at hsplit
  omega

/-- A list of remainders is avoided as often in each of `n` rounds. -/
theorem countP_range_mod_not_mem {m : Nat} {L : List Nat} (hL : L.Nodup) (hlt : ∀ k ∈ L, k < m) (n : Nat) :
    (List.range (n * m)).countP (fun k => decide (k % m ∉ L)) = n * (m - L.length) := by
  induction n with
  | zero => simp
  | succ n ih =>
    have hround : ∀ k ∈ List.range m,
        ((fun k => decide (k % m ∉ L)) ∘ (n * m + ·)) k = true ↔ decide (k ∉ L) = true := by
      intro k hk
      rw [Function.comp, Nat.mul_add_mod', Nat.mod_eq_of_lt (List.mem_range.mp hk)]
    rw [Nat.succ_mul, List.range_add, List.countP_append, List.countP_map, ih, List.countP_congr hround,
      countP_range_not_mem hL hlt, Nat.succ_mul]

/-- The k-th word of a major opcode. -/
def wordOfMajor (op : Fin 16) (k : Nat) : Word := BitVec.ofNat 16 (op.val * 4096 + k)

theorem fieldOp_wordOfMajor (hk : k < 4096) : (fieldOp (wordOfMajor op k)).toNat = op.val := by
  rw [fieldOp_toNat, wordOfMajor, BitVec.toNat_ofNat]
  omega

theorem fieldN_wordOfMajor : (fieldN (wordOfMajor op k)).val = k % 16 := by
  rw [fieldN_val, wordOfMajor, BitVec.toNat_ofNat]
  omega

theorem fieldNn_wordOfMajor : (fieldNn (wordOfMajor op k)).toNat = k % 256 := by
  rw [fieldNn_toNat, wordOfMajor, BitVec.toNat_ofNat]
  omega

/-- In a major opcode whose known words are those with a minor opcode of the list, each minor opcode that is missing gives `n` unknown words. -/
theorem countP_unknownWord_of_minor (n m : Nat) (known : List Nat)
    (hminor : ∀ k < n * m, unknownWord (wordOfMajor op k) ↔ k % m ∉ known)
    (hknown : known.Nodup := by decide) (hlt : ∀ k ∈ known, k < m := by decide) :
    (List.range (n * m)).countP (fun k => decide (unknownWord (wordOfMajor op k))) = n * (m - known.length) := by
  rw [← countP_range_mod_not_mem hknown hlt n]
  exact List.countP_congr fun k hk => by
    rw [decide_eq_true_iff, decide_eq_true_iff, hminor k (List.mem_range.mp hk)]

/-- The numbers of unknown words that R51 lists, by major opcode. -/
theorem countP_unknownWord (op : Fin 16) :
    (List.range 4096).countP (fun k => decide (unknownWord (wordOfMajor op k)))
      = match op.val with
        | 0x5 => 3840
        | 0x8 => 1792
        | 0x9 => 3840
        | 0xE => 4064
        | 0xF => 3952
        | _ => 0 := by
  have hmajor {v : Nat} (h : op.val = v) (k : Nat) (hk : k < 4096) : (fieldOp (wordOfMajor op k)).toNat = v :=
    (fieldOp_wordOfMajor hk).trans h
  split
  case h_1 hop =>
    exact countP_unknownWord_of_minor 256 16 [0x0] fun k hk => by
      rw [unknownWord_iff_of_n0 (.inl (hmajor hop k hk)), fieldN_wordOfMajor]
  case h_2 hop =>
    exact countP_unknownWord_of_minor 256 16 [0x0, 0x1, 0x2, 0x3, 0x4, 0x5, 0x6, 0x7, 0xE] fun k hk => by
      rw [unknownWord_iff_of_op8 (hmajor hop k hk), fieldN_wordOfMajor]
  case h_3 hop =>
    exact countP_unknownWord_of_minor 256 16 [0x0] fun k hk => by
      rw [unknownWord_iff_of_n0 (.inr (hmajor hop k hk)), fieldN_wordOfMajor]
  case h_4 hop =>
    exact countP_unknownWord_of_minor 16 256 [0x9E, 0xA1] fun k hk => by
      rw [unknownWord_iff_of_opE (hmajor hop k hk), fieldNn_wordOfMajor]
  case h_5 hop =>
    exact countP_unknownWord_of_minor 16 256 [0x07, 0x0A, 0x15, 0x18, 0x1E, 0x29, 0x33, 0x55, 0x65] fun k hk => by
      rw [unknownWord_iff_of_opF (hmajor hop k hk), fieldNn_wordOfMajor]
  case h_6 =>
    refine List.countP_eq_zero.mpr fun k hk => ?_
    have hop := fieldOp_wordOfMajor (op := op) (List.mem_range.mp hk)
    have hknown : ¬ unknownWord (wordOfMajor op k) := not_unknownWord_of_op (by simp_all)
    rwa [decide_eq_true_iff]

end Sys2Proof
end

section
/-! PROOF. The rows of the opcode table: the word of an instruction fits its own row, and two rows overlap only at SYS. -/

namespace Sys2Proof

/-- The word of every instruction fits its row (30_encoding.md R55). -/
theorem row_fits_encode (i : Instr) : i.row.fits (encode i) = true := by
  cases i with
  | cls | ret => rfl
  | sys | jp | call | ldI | jpV0 => exact Laws.fits_op _ _ (fieldOp_packNnn _ _) rfl
  | seImm | sneImm | ldImm | addImm | rnd => exact Laws.fits_op _ _ (fieldOp_packXnn _ _ _) rfl
  | drw => exact Laws.fits_op _ _ (fieldOp_packXyn _ _ _ _) rfl
  | seReg | sneReg | ldReg | orReg | andReg | xorReg | addReg | subReg | shr | subn | shl =>
    exact Laws.fits_op_n _ _ _ (fieldOp_packXyn _ _ _ _) (fieldN_packXyn _ _ _ _) rfl
  | skp | sknp | ldVxDt | ldVxK | ldDtVx | ldStVx | addI | ldF | ldB | storeRegs | loadRegs =>
    exact Laws.fits_op_nn _ _ _ (fieldOp_packXnn _ _ _) (fieldNn_packXnn _ _ _) rfl

/-- The rows of the opcode table, each once: those of the instructions with every operand 0. -/
def opcodeTable : List OpcodeRow :=
  [Instr.sys 0, .cls, .ret, .jp 0, .call 0, .seImm 0 0, .sneImm 0 0, .seReg 0 0, .ldImm 0 0, .addImm 0 0,
    .ldReg 0 0, .orReg 0 0, .andReg 0 0, .xorReg 0 0, .addReg 0 0, .subReg 0 0, .shr 0 0, .subn 0 0, .shl 0 0,
    .sneReg 0 0, .ldI 0, .jpV0 0, .rnd 0 0, .drw 0 0 0, .skp 0, .sknp 0, .ldVxDt 0, .ldVxK 0, .ldDtVx 0,
    .ldStVx 0, .addI 0, .ldF 0, .ldB 0, .storeRegs 0, .loadRegs 0].map Instr.row

theorem Instr.row_mem_opcodeTable (i : Instr) : i.row ∈ opcodeTable := by
  cases i <;> exact List.mem_of_elem_eq_true rfl

theorem Instr.row_eq_sys_iff {i : Instr} : i.row = (Instr.sys 0).row ↔ ∃ nnn, i = .sys nnn := by
  cases i <;> simp [Instr.row]

theorem Instr.row_eq_cls_iff {i : Instr} : i.row = Instr.cls.row ↔ i = .cls := by
  cases i <;> simp [Instr.row]

theorem Instr.row_eq_ret_iff {i : Instr} : i.row = Instr.ret.row ↔ i = .ret := by
  cases i <;> simp [Instr.row]

/-- Two rows agree on the bits that both masks keep. -/
def OpcodeRow.agrees (r r' : OpcodeRow) : Bool := (r.pattern &&& r'.mask) == (r'.pattern &&& r.mask)

theorem OpcodeRow.agrees_of_fits {r r' : OpcodeRow} {w : Word} (h : r.fits w = true) (h' : r'.fits w = true) :
    r.agrees r' = true := by
  simp only [OpcodeRow.fits, beq_iff_eq] at h h'
  simp only [OpcodeRow.agrees, beq_iff_eq, ← h, ← h']
  ac_rfl

/-- Two rows of the table that agree are one row, or SYS's and one of the two that come before it (30_encoding.md R49, R55). -/
theorem opcodeTable_agrees :
    ∀ r ∈ opcodeTable, ∀ r' ∈ opcodeTable, r.agrees r' = true →
      r = r' ∨ (r = (Instr.sys 0).row ∧ (r' = Instr.cls.row ∨ r' = Instr.ret.row))
        ∨ (r' = (Instr.sys 0).row ∧ (r = Instr.cls.row ∨ r = Instr.ret.row)) := by
  decide

end Sys2Proof
end

section
/-! PROOF. The statements of the family 30_encoding.md. -/

namespace Sys2Proof

open Sys2Proof.Machine

/-- Settles O2: decoding undoes encoding on words, and decoding bytes is decoding their word. -/
theorem decodeOfEncodeIsTheInstruction : Obligations.DecodeOfEncodeIsTheInstruction := by
  intro i hi
  refine ⟨decodeWord_encode hi, fun rest => ?_⟩
  calc decode (encodeBytes i ++ rest)
    _ = (decodeWord (encode i)).map (fun i => (i, rest)) := decode_bytes (encode i) rest
    _ = .ok (i, rest) := by rw [decodeWord_encode hi]; rfl

/-- Settles O3: the decoder's answer is the right one, and the word of an instruction fits its row. -/
theorem decodedWordIsItsInstructionsWord : Obligations.DecodedWordIsItsInstructionsWord := by
  intro w i h
  obtain ⟨rfl, hwf, -⟩ := encode_of_decodeWord_ok h
  exact ⟨rfl, hwf, by simpa [OpcodeRow.fits] using row_fits_encode i⟩

/-- Settles O4: the rows of both instructions stand in the table, and of two rows of the table that agree one is SYS's. -/
theorem noWordFitsTwoRowsButSys : Obligations.NoWordFitsTwoRowsButSys := by
  intro w i j hi hj
  have h := opcodeTable_agrees _ i.row_mem_opcodeTable _ j.row_mem_opcodeTable (OpcodeRow.agrees_of_fits hi hj)
  simpa only [Instr.row_eq_sys_iff, Instr.row_eq_cls_iff, Instr.row_eq_ret_iff] using h

/-- Settles O5: the decoder's answer is the right one, the counts follow from the lists of minor opcodes, and the step raises the diagnostic. -/
theorem unknownWordsAreDiagnosedNoOps : Obligations.UnknownWordsAreDiagnosedNoOps := by
  refine ⟨fun w => decodeWord_unknown_iff, countP_unknownWord, fun s hs => ?_⟩
  exact ⟨_, step_of_unknown (decodeWord_unknown_iff.mpr hs), rfl, rfl, rfl, by simp⟩

/-- Settles O1: the fourteen words, one by one. -/
theorem sampleWordsDecodeAsTheTableSays : Obligations.SampleWordsDecodeAsTheTableSays := by
  unfold Obligations.SampleWordsDecodeAsTheTableSays
  decide

/-- Settles O6: the big-endian word of the two bytes is the word the step fetches. -/
theorem stepRunsTheDecodedInstruction : Obligations.StepRunsTheDecodedInstruction := by
  intro s w hw
  obtain rfl : w = s.fetch16 s.pc := BitVec.eq_of_toNat_eq (hw.trans (wordOfBytes_toNat _ _).symm)
  exact ⟨fun i hd => step_of_decoded hd, fun hd => step_of_unknown hd⟩

end Sys2Proof
end

section
/-! PROOF. How the control flow instructions end: the diagnostics, the skips, the words and targets they compute (40_control_flow.md R57 to R65). -/

namespace Sys2Proof

open Sys2Proof.Machine

variable {s : State} {a : Addr} {i : Instr} {w : Word} {kind : DiagKind}

/-! ### Diagnosed no-ops -/

/-- The address recorded by a diagnostic is the instruction's own (30_encoding.md R48). -/
theorem instrAddr_eq (ha : s.pc = a + 2#12) : s.instrAddr = a := by
  rw [State.instrAddr, ha, BitVec.add_sub_cancel]

/-- A word with the fields `op` and `nnn`, as the number it is (30_encoding.md R45). -/
theorem packNnn_eq_ofNat (op : BitVec 4) (nnn : Addr) :
    packNnn op nnn = BitVec.ofNat 16 (op.toNat * 4096 + nnn.toNat) := by
  rw [← packNnn_toNat, BitVec.ofNat_toNat, BitVec.setWidth_eq]

/-- An instruction at `a` that only raises its diagnostic records `a` and its own word (60_exceptions.md R94). -/
theorem exec_onlyDiagnosed (ha : s.pc = a + 2#12) (hw : encode i = w)
    (h : exec i s = raiseDiagnostic kind s.instrAddr (encode i) s) :
    ∃ t, exec i s = .next t ∧ onlyDiagnosed kind a w s t := by
  rw [h, hw, instrAddr_eq ha]
  exact ⟨_, raiseDiagnostic_eq s kind a w, rfl, rfl, by simp⟩

/-! ### Skips and computed targets -/

/-- A skip completes, adds 2 to PC exactly when its condition holds, and changes nothing else. -/
theorem skipIf_next (s : State) {cond : Bool} {P : Prop} [Decidable P] (hP : cond = true ↔ P) :
    ∃ t, skipIf cond s = .next t ∧ t.status = .executed
      ∧ t.pc = (if P then s.pc + 2#12 else s.pc) ∧ unchangedExcept [.pc] s t := by
  refine ⟨_, executed_eq _, rfl, ?_, ?_⟩
  · by_cases h : P <;> simp [hP, h]
  · cases cond <;> simp

theorem addrPlusByte_toNat (a : Addr) (b : Byte) : (addrPlusByte a b).toNat = (a.toNat + b.toNat) % 4096 :=
  BitVec.toNat_ofNat _ _

theorem exec_jp (nnn : Addr) (s : State) : exec (.jp nnn) s = executed (s.setPc nnn) := rfl

theorem exec_jpV0 (nnn : Addr) (s : State) :
    exec (.jpV0 nnn) s = executed (s.setPc (addrPlusByte nnn (s.getV 0))) := rfl

end Sys2Proof
end

section
/-! PROOF. A machine halted by a jump to itself: what its steps and its frames leave to see (70_reset_and_hazards.md R119 b). -/

namespace Sys2Proof

open Sys2Proof.Machine

variable {L : List Item} {s t u : State} {h : Addr} {m n : Nat}

/-! ### Halted -/

/-- Only PC and memory say whether the machine is halted. -/
theorem haltedAt.of_unchanged (hs : haltedAt h s) (hu : unchangedExcept L s t)
    (hpc : Item.pc ∉ L := by simp) (hmem : Item.mem ∉ L := by simp) : haltedAt h t := by
  obtain ⟨hsPc, hsWord⟩ := hs
  have hread : ∀ a, t.readByte a = s.readByte a := hu .mem hmem
  have hfetch : t.fetch16 h = s.fetch16 h := by simp only [State.fetch16, hread]
  exact ⟨(hu .pc hpc).trans hsPc, hfetch.trans hsWord⟩

/-- The jump takes PC back to where it stands (40_control_flow.md R59). -/
theorem step_of_haltedAt (hs : haltedAt h s) : step s = .next (s.setStatus .executed) := by
  obtain ⟨rfl, hword⟩ := hs
  have hdecode : decodeWord (s.fetch16 s.pc) = .ok (.jp s.pc) := by
    rw [hword]
    exact decodeWord_encode (i := .jp s.pc) rfl
  calc step s
    _ = exec (.jp s.pc) s.advancePc := step_of_decoded hdecode
    _ = executed (s.advancePc.setPc s.pc) := exec_jp s.pc _
    _ = .next (s.setStatus .executed) := rfl

theorem runSteps_of_haltedAt (n : Nat) (hs : haltedAt h s) :
    ∃ t, runSteps n s = .next t ∧ unchangedExcept [] s t := by
  induction n generalizing s with
  | zero => exact ⟨s, rfl, unchangedExcept_refl _ s⟩
  | succ n ih =>
    have hu : unchangedExcept [] s (s.setStatus .executed) := by simp
    obtain ⟨t, hrun, ht⟩ := ih (hs.of_unchanged hu)
    exact ⟨t, by simp [runSteps, step_of_haltedAt hs, hrun], hu.trans ht⟩

/-! ### Ticks and nothing else -/

/-- What `f` ticks leave to see, and nothing else: each timer loses `f`, down to 0, and the end of the tone is reported once, iff ST ran out within them (60_exceptions.md R103, R106). -/
def onlyTicked (f : Nat) (s t : State) : Prop :=
  t.dt.toNat = s.dt.toNat - f ∧ t.st.toNat = s.st.toNat - f
    ∧ t.tone = s.tone ++ (if 1 ≤ s.st.toNat ∧ s.st.toNat ≤ f then [ToneEdge.stop] else [])
    ∧ unchangedExcept [.dt, .st, .tone] s t

theorem onlyTicked_zero (hu : unchangedExcept [] s t) : onlyTicked 0 s t := by
  have hdt : t.dt = s.dt := hu .dt (by simp)
  have hst : t.st = s.st := hu .st (by simp)
  have htone : t.tone = s.tone := hu .tone (by simp)
  have hnone : ¬ (1 ≤ s.st.toNat ∧ s.st.toNat ≤ 0) := by omega
  exact ⟨by simp [hdt], by simp [hst], by rw [htone, if_neg hnone, List.append_nil], hu.mono (by simp)⟩

theorem onlyTicked_tick (s : State) : onlyTicked 1 s (tick s) := by
  have hone : (1 ≤ s.st.toNat ∧ s.st.toNat ≤ 1) ↔ s.st = 1#8 := by bv_omega
  exact ⟨tick_dt s, tick_st s, by simp only [tick_tone, hone], tick_frame s⟩

/-- ST runs out within `m + n` ticks in the first `m` or in the last `n`, never in both. -/
theorem onlyTicked.trans (hst : onlyTicked m s t) (htu : onlyTicked n t u) : onlyTicked (m + n) s u := by
  obtain ⟨hdt, hst, htone, hframe⟩ := hst
  obtain ⟨hdt', hst', htone', hframe'⟩ := htu
  refine ⟨by omega, by omega, ?_, hframe.trans hframe'⟩
  rw [htone', htone, hst, List.append_assoc]
  congr 1
  by_cases hm : 1 ≤ s.st.toNat ∧ s.st.toNat ≤ m
  · rw [if_pos hm, if_neg (by omega), if_pos (by omega), List.append_nil]
  · have hlast : (1 ≤ s.st.toNat - m ∧ s.st.toNat - m ≤ n) ↔ (1 ≤ s.st.toNat ∧ s.st.toNat ≤ m + n) := by omega
    simp only [if_neg hm, hlast, List.nil_append]

theorem onlyTicked.haltedAt (ht : onlyTicked n s t) (hs : haltedAt h s) : haltedAt h t := by
  obtain ⟨-, -, -, hframe⟩ := ht
  exact hs.of_unchanged hframe

/-! ### Frames -/

theorem advanceFrame_of_haltedAt (ipf : Nat) (hs : haltedAt h s) :
    ∃ t, advanceFrame ipf s = .next t ∧ onlyTicked 1 s t := by
  obtain ⟨u, hrun, hu⟩ := runSteps_of_haltedAt ipf hs
  exact ⟨tick u, by simp only [advanceFrame, hrun], by simpa using (onlyTicked_zero hu).trans (onlyTicked_tick u)⟩

theorem runFrames_of_haltedAt (ipf f : Nat) (hs : haltedAt h s) :
    ∃ t, runFrames ipf f s = .next t ∧ onlyTicked f s t := by
  induction f generalizing s with
  | zero => exact ⟨s, rfl, onlyTicked_zero (unchangedExcept_refl _ s)⟩
  | succ f ih =>
    obtain ⟨u, hframe, hu⟩ := advanceFrame_of_haltedAt ipf hs
    obtain ⟨t, hrun, ht⟩ := ih (hu.haltedAt hs)
    exact ⟨t, by simp only [runFrames, hframe, hrun], Nat.add_comm 1 f ▸ hu.trans ht⟩

end Sys2Proof
end

section
/-! PROOF. The statements of the family 40_control_flow.md. -/

namespace Sys2Proof

open Sys2Proof.Machine

/-- Settles O47: a halted step sets the status alone, so by induction over the frames only their ticks are left to see. -/
theorem selfJumpOnlyLetsTheTimersRun : Obligations.SelfJumpOnlyLetsTheTimersRun := by
  intro s h hs
  constructor
  · have hu : unchangedExcept [] s (s.setStatus .executed) := by simp
    exact ⟨_, step_of_haltedAt hs, hs.of_unchanged hu, hu⟩
  · intro ipf f
    obtain ⟨t, hrun, ht⟩ := runFrames_of_haltedAt ipf f hs
    exact ⟨t, hrun, ht.haltedAt hs, ht⟩

/-- Settles O11: SYS is its diagnostic, and its word is the number nnn. -/
theorem sysIsADiagnosedNoOp : Obligations.SysIsADiagnosedNoOp := by
  intro s a nnn _ ha
  have hword : encode (.sys nnn) = BitVec.ofNat 16 nnn.toNat := by simp [encode, packNnn_eq_ofNat]
  exact exec_onlyDiagnosed ha hword rfl

/-- Settles O12: the diagnostic on an empty stack, the pop on any other. -/
theorem retPopsTheStackIntoPc : Obligations.RetPopsTheStackIntoPc := by
  intro s a ha
  constructor
  · intro hempty
    exact exec_onlyDiagnosed ha rfl (exec_ret_empty hempty)
  · intro hheld
    have hpos : 0 < s.sp.val := Nat.pos_of_ne_zero hheld
    exact ⟨_, exec_ret_of_held hpos, rfl, Nat.sub_add_cancel hpos, by simp, by simp⟩

/-- Settles O13: the jump writes PC alone. -/
theorem jpSetsPc : Obligations.JpSetsPc :=
  fun s nnn => ⟨_, exec_jp nnn s, rfl, rfl, by simp⟩

/-- Settles O14: the diagnostic on a full stack, the push and the jump on any other. -/
theorem callPushesTheReturnAddress : Obligations.CallPushesTheReturnAddress := by
  intro s a nnn ha
  constructor
  · intro hfull
    exact exec_onlyDiagnosed ha (packNnn_eq_ofNat 0x2#4 nnn) (exec_call_full nnn hfull)
  · intro hroom
    refine ⟨_, exec_call_of_room nnn hroom, rfl, ?_, fun k hk => ?_, rfl, rfl, by simp⟩
    · simp [ha]
    · simp [hk.symm]

/-- Settles O16: both instructions are a skip on their condition. -/
theorem immediateSkips : Obligations.ImmediateSkips :=
  fun s _ _ => ⟨skipIf_next s beq_iff_eq, skipIf_next s bne_iff_ne⟩

/-- Settles O17: both instructions are a skip on their condition. -/
theorem registerSkips : Obligations.RegisterSkips :=
  fun s _ _ => ⟨skipIf_next s beq_iff_eq, skipIf_next s bne_iff_ne⟩

/-- Settles O18: the write of PC reduces the sum modulo 4096. -/
theorem jpV0AddsV0 : Obligations.JpV0AddsV0 :=
  fun s nnn => ⟨_, exec_jpV0 nnn s, rfl, addrPlusByte_toNat nnn (s.getV 0), by simp⟩

end Sys2Proof
end

section
/-! PROOF. The flags of 8XY4 to 8XYE as arithmetic, and the two ways an instruction of 41_alu.md ends: a write of Vx, or a write of VF and then Vx. -/

namespace Sys2Proof.Machine

variable (a b : Byte)

/-! ### The flags as values of VF -/

theorem flagByte_carryFlag : flagByte (carryFlag a b) = if a.toNat + b.toNat > 255 then 1#8 else 0#8 := by
  simp [flagByte, carryFlag]

theorem flagByte_noBorrowFlag : flagByte (noBorrowFlag a b) = if a.toNat < b.toNat then 0#8 else 1#8 := by
  by_cases h : a.toNat < b.toNat <;> simp [flagByte, noBorrowFlag, h]

theorem toNat_flagByte_getLsbD (k : Nat) : (flagByte (a.getLsbD k)).toNat = a.toNat / 2 ^ k % 2 := by
  have hbit : a.getLsbD k = decide (a.toNat / 2 ^ k % 2 = 1) := Nat.testBit_eq_decide_div_mod_eq
  obtain h | h := Nat.mod_two_eq_zero_or_one (a.toNat / 2 ^ k) <;> simp [flagByte, hbit, h]

theorem toNat_flagByte_shrFlag : (flagByte (shrFlag a)).toNat = a.toNat % 2 := by
  rw [shrFlag, toNat_flagByte_getLsbD, pow_zero, Nat.div_one]

theorem toNat_flagByte_shlFlag : (flagByte (shlFlag a)).toNat = a.toNat / 128 := by
  have hbit : (flagByte (shlFlag a)).toNat = a.toNat / 128 % 2 := toNat_flagByte_getLsbD a 7
  omega

theorem flagByte_shrFlag : flagByte (shrFlag a) = a &&& 1#8 := by
  apply BitVec.eq_of_toNat_eq
  rw [toNat_flagByte_shrFlag, BitVec.toNat_and, BitVec.toNat_ofNat, Nat.and_one_is_mod]

theorem flagByte_shlFlag : flagByte (shlFlag a) = a >>> 7 := by
  apply BitVec.eq_of_toNat_eq
  rw [toNat_flagByte_shlFlag, BitVec.toNat_ushiftRight, Nat.shiftRight_eq_div_pow]

/-- The difference of two bytes is the exact one, reduced to 0 to 255 (41_alu.md R74, R76). -/
theorem toNat_byte_sub : ((a - b).toNat : Int) = ((a.toNat : Int) - b.toNat) % 256 := by
  rw [BitVec.toNat_sub]
  omega

end Sys2Proof.Machine

namespace Sys2Proof

open Sys2Proof.Machine

variable (s : State) (x y : RegIdx) (nn : Byte)

/-! ### What each instruction does -/

theorem exec_ldImm : exec (.ldImm x nn) s = executed (s.setV x nn) := rfl

theorem exec_addImm : exec (.addImm x nn) s = executed (s.setV x (s.getV x + nn)) := rfl

theorem exec_ldReg : exec (.ldReg x y) s = executed (s.setV x (s.getV y)) := rfl

theorem exec_orReg : exec (.orReg x y) s = executed (s.setV x (s.getV x ||| s.getV y)) := rfl

theorem exec_andReg : exec (.andReg x y) s = executed (s.setV x (s.getV x &&& s.getV y)) := rfl

theorem exec_xorReg : exec (.xorReg x y) s = executed (s.setV x (s.getV x ^^^ s.getV y)) := rfl

theorem exec_addReg : exec (.addReg x y) s
    = executed (s.writeFlagged x (s.getV x + s.getV y) (carryFlag (s.getV x) (s.getV y))) := rfl

theorem exec_subReg : exec (.subReg x y) s
    = executed (s.writeFlagged x (s.getV x - s.getV y) (noBorrowFlag (s.getV x) (s.getV y))) := rfl

theorem exec_shr : exec (.shr x y) s = executed (s.writeFlagged x (s.getV x >>> 1) (shrFlag (s.getV x))) := rfl

theorem exec_subn : exec (.subn x y) s
    = executed (s.writeFlagged x (s.getV y - s.getV x) (noBorrowFlag (s.getV y) (s.getV x))) := rfl

theorem exec_shl : exec (.shl x y) s = executed (s.writeFlagged x (s.getV x <<< 1) (shlFlag (s.getV x))) := rfl

theorem exec_rnd : exec (.rnd x nn) s = executed (s.countDraw.setV x (s.nextDraw &&& nn)) := rfl

/-! ### The two endings -/

variable {s x} {i : Instr} {a b flag : Byte} {f : Bool}

/-- An instruction that ends by writing Vx completes and changes nothing else. -/
theorem next_of_exec_setV (h : exec i s = executed (s.setV x b)) :
    ∃ t, exec i s = .next t ∧ t.status = .executed
      ∧ t.getV x = b ∧ regsExcept [x] s t ∧ unchangedExcept [.v] s t :=
  ⟨_, h, rfl, by simp, regsExcept_setV s x b, by simp⟩

/-- An instruction that ends by `WriteFlagged` completes with Vx the result and, for x other than F, VF the flag, and changes nothing else (41_alu.md R66). -/
theorem next_of_exec_writeFlagged (h : exec i s = executed (s.writeFlagged x b f)) :
    ∃ t, exec i s = .next t ∧ t.status = .executed
      ∧ t.getV x = b ∧ (x ≠ 15 → t.getV 15 = flagByte f)
      ∧ regsExcept [x, 15] s t ∧ unchangedExcept [.v] s t := by
  refine ⟨_, h, rfl, ?_, fun hx => ?_, regsExcept_writeFlagged s x b f, by simp⟩
  · simp [State.getV_writeFlagged]
  · simp [State.getV_writeFlagged, hx.symm]

/-- The register file `WriteFlagged` ends with, for every x, F too (41_alu.md R66). -/
theorem registers_of_exec_writeFlagged (h : exec i s = executed (s.writeFlagged x b f)) (hf : flagByte f = flag) :
    ∃ t, exec i s = .next t ∧ t.v = (s.v.set 15 flag).set x.val b ∧ unchangedExcept [.v] s t := by
  subst hf
  exact ⟨_, h, rfl, by simp⟩

/-- Both subtractions, `a` the minuend and `b` the subtrahend (41_alu.md R74, R76). -/
theorem next_of_exec_sub (h : exec i s = executed (s.writeFlagged x (a - b) (noBorrowFlag a b))) :
    ∃ t, exec i s = .next t ∧ t.status = .executed
      ∧ ((t.getV x).toNat : Int) = ((a.toNat : Int) - b.toNat) % 256
      ∧ (x ≠ 15 → t.getV 15 = if a.toNat < b.toNat then 0#8 else 1#8)
      ∧ regsExcept [x, 15] s t ∧ unchangedExcept [.v] s t := by
  obtain ⟨t, he, hstatus, hres, hflag, hframe⟩ := next_of_exec_writeFlagged h
  rw [← toNat_byte_sub, ← flagByte_noBorrowFlag]
  exact ⟨t, he, hstatus, by rw [hres], hflag, hframe⟩

/-- Both shifts: the result and the flag as the numbers they are (41_alu.md R75, R77). -/
theorem next_of_exec_shift {result bit : Nat} (h : exec i s = executed (s.writeFlagged x b f))
    (hb : b.toNat = result) (hf : (flagByte f).toNat = bit) :
    ∃ t, exec i s = .next t ∧ t.status = .executed
      ∧ (t.getV x).toNat = result ∧ (x ≠ 15 → (t.getV 15).toNat = bit)
      ∧ regsExcept [x, 15] s t ∧ unchangedExcept [.v] s t := by
  obtain ⟨t, he, hstatus, hres, hflag, hframe⟩ := next_of_exec_writeFlagged h
  exact ⟨t, he, hstatus, by rw [hres, hb], fun hx => by rw [hflag hx, hf], hframe⟩

end Sys2Proof
end

section
/-! PROOF. The statements of the family 41_alu.md. -/

namespace Sys2Proof

open Sys2Proof.Machine

/-- Settles O24: all five end by `WriteFlagged`; the flag of each is the value the statement names. -/
theorem flagIsWrittenBeforeTheResult : Obligations.FlagIsWrittenBeforeTheResult := by
  intro s x y i result flag hi
  simp only [List.mem_cons, List.not_mem_nil, or_false, Prod.mk.injEq] at hi
  obtain ⟨rfl, rfl, rfl⟩ | ⟨rfl, rfl, rfl⟩ | ⟨rfl, rfl, rfl⟩ | ⟨rfl, rfl, rfl⟩ | ⟨rfl, rfl, rfl⟩ := hi
  · exact registers_of_exec_writeFlagged (exec_addReg s x y) (flagByte_carryFlag _ _)
  · exact registers_of_exec_writeFlagged (exec_subReg s x y) (flagByte_noBorrowFlag _ _)
  · exact registers_of_exec_writeFlagged (exec_shr s x y) (flagByte_shrFlag _)
  · exact registers_of_exec_writeFlagged (exec_subn s x y) (flagByte_noBorrowFlag _ _)
  · exact registers_of_exec_writeFlagged (exec_shl s x y) (flagByte_shlFlag _)

/-- Settles O19: both end by a write of Vx, and the sum of two bytes is reduced modulo 256. -/
theorem immediateLoadAndAdd : Obligations.ImmediateLoadAndAdd := by
  intro s x nn
  obtain ⟨t, he, hstatus, hsum, hframe⟩ := next_of_exec_setV (exec_addImm s x nn)
  exact ⟨next_of_exec_setV (exec_ldImm s x nn), t, he, hstatus, by rw [hsum, BitVec.toNat_add], hframe⟩

/-- Settles O20: all four end by a write of Vx. -/
theorem moveAndLogicWriteOnlyVx : Obligations.MoveAndLogicWriteOnlyVx :=
  fun s x y => ⟨next_of_exec_setV (exec_ldReg s x y), next_of_exec_setV (exec_orReg s x y),
    next_of_exec_setV (exec_andReg s x y), next_of_exec_setV (exec_xorReg s x y)⟩

/-- Settles O21: `WriteFlagged` with the sum and the carry. -/
theorem addSetsVxAndCarry : Obligations.AddSetsVxAndCarry := by
  intro s x y
  obtain ⟨t, he, hstatus, hsum, hcarry, hframe⟩ := next_of_exec_writeFlagged (exec_addReg s x y)
  rw [flagByte_carryFlag] at hcarry
  exact ⟨t, he, hstatus, by rw [hsum, BitVec.toNat_add], hcarry, hframe⟩

/-- Settles O22: one subtraction with its operands in either order. -/
theorem subtractionsSetVxAndNoBorrow : Obligations.SubtractionsSetVxAndNoBorrow :=
  fun s x y => ⟨next_of_exec_sub (exec_subReg s x y), next_of_exec_sub (exec_subn s x y)⟩

/-- Settles O23: a shift by one halves or doubles, and the flag is the bit at the end it shifts out of. -/
theorem shiftsSetVxAndTheBitShiftedOut : Obligations.ShiftsSetVxAndTheBitShiftedOut := by
  intro s x y
  have hhalf : (s.getV x >>> 1).toNat = (s.getV x).toNat / 2 := by
    rw [BitVec.toNat_ushiftRight, Nat.shiftRight_one]
  have hdouble : (s.getV x <<< 1).toNat = (s.getV x).toNat * 2 % 256 := by
    rw [BitVec.toNat_shiftLeft, Nat.shiftLeft_eq, pow_one]
  exact ⟨next_of_exec_shift (exec_shr s x y) hhalf (toNat_flagByte_shrFlag _),
    next_of_exec_shift (exec_shl s x y) hdouble (toNat_flagByte_shlFlag _)⟩

/-- Settles O25: the draw is counted, then Vx is written with it under the mask. -/
theorem rndTakesOneDrawUnderTheMask : Obligations.RndTakesOneDrawUnderTheMask :=
  fun s x nn => ⟨_, exec_rnd s x nn, rfl, by simp [State.nextDraw], rfl, regsExcept_setV s.countDraw x _, by simp⟩

end Sys2Proof
end

section
/-! PROOF. How the instructions of 42_index_memory.md end: a write of I, three digits stored, a block transfer with its advance of I (R79 to R84). -/

namespace Sys2Proof.Machine

variable {s t : State} {x k : RegIdx}

/-! ### What the operands come to -/

theorem glyphAddr_toNat (vx : Byte) : (glyphAddr vx).toNat = 5 * (vx.toNat % 16) := by
  rw [glyphAddr, BitVec.toNat_ofNat]
  omega

theorem bcdHundreds_toNat (vx : Byte) : (bcdHundreds vx).toNat = vx.toNat / 100 := by
  rw [bcdHundreds, BitVec.toNat_ofNat]
  omega

theorem bcdTens_toNat (vx : Byte) : (bcdTens vx).toNat = vx.toNat / 10 % 10 := by
  rw [bcdTens, BitVec.toNat_ofNat]
  omega

theorem bcdOnes_toNat (vx : Byte) : (bcdOnes vx).toNat = vx.toNat % 10 := by
  rw [bcdOnes, BitVec.toNat_ofNat]
  omega

theorem State.iPlus_toNat (s : State) (n : Nat) : (s.iPlus n).toNat = (s.i.toNat + n) % 4096 := by
  simp [State.iPlus, BitVec.toNat_add]

/-! ### Three bytes in a row -/

/-- Three bytes stored at a, a + 1 and a + 2, at any address, the top of memory included (20_memory.md R31). -/
theorem State.readByte_writeThree (s : State) (a : Addr) (b₀ b₁ b₂ : Byte) (q : Addr) :
    (((s.writeByte a b₀).writeByte (a + 1#12) b₁).writeByte (a + 2#12) b₂).readByte q
      = if q = a then b₀ else if q = a + 1#12 then b₁ else if q = a + 2#12 then b₂ else s.readByte q := by
  have h01 : a ≠ a + 1#12 := by bv_omega
  have h02 : a ≠ a + 2#12 := by bv_omega
  have h12 : a + 1#12 ≠ a + 2#12 := by bv_omega
  simp only [State.readByte_writeByte]
  by_cases hq₀ : q = a
  · simp [hq₀, h01, h02]
  · by_cases hq₁ : q = a + 1#12
    · simp [hq₁, h12, h01.symm]
    · simp [hq₀, hq₁]

/-! ### Block transfers, register by register -/

/-- After a block store, Vk stands at I + k for every k up to x. -/
theorem readByte_of_mem_storeBlock (hmem : t.mem = storeBlock s.v s.i (x.val + 1) s.mem) (hk : k ≤ x) :
    t.readByte (s.i + BitVec.ofNat 12 k.val) = s.getV k := by
  rw [State.readByte, hmem]
  exact read_storeBlock_inside s.v s.i s.mem (by omega) (Nat.lt_succ_of_le hk)

/-- A block store leaves every byte outside I to I + x. -/
theorem readByte_of_mem_storeBlock_outside (hmem : t.mem = storeBlock s.v s.i (x.val + 1) s.mem) {a : Addr}
    (ha : ∀ k : RegIdx, k ≤ x → a ≠ s.i + BitVec.ofNat 12 k.val) : t.readByte a = s.readByte a := by
  rw [State.readByte, hmem]
  refine read_storeBlock_outside s.v s.i s.mem fun k hk => ?_
  exact mt BitVec.eq_of_toNat_eq (ha ⟨k, by omega⟩ (Nat.le_of_lt_succ hk))

/-- A block load takes Vk from I + k for every k up to x and leaves the registers above Vx. -/
theorem getV_of_v_loadBlock (hv : t.v = loadBlock s.mem s.i (x.val + 1) s.v) (k : RegIdx) :
    t.getV k = if k ≤ x then s.readByte (s.i + BitVec.ofNat 12 k.val) else s.getV k := by
  simp only [State.getV, hv]
  rw [getElem_loadBlock _ _ _ (by omega) k.isLt]
  simp only [Nat.lt_succ_iff, Fin.le_def, State.readByte]

end Sys2Proof.Machine

namespace Sys2Proof

open Sys2Proof.Machine

variable (s : State) (x : RegIdx)

/-! ### What each instruction does -/

theorem exec_ldI (nnn : Addr) : exec (.ldI nnn) s = executed (s.setI nnn) := rfl

theorem exec_addI : exec (.addI x) s = executed (s.setI (addrPlusByte s.i (s.getV x))) := rfl

theorem exec_ldF : exec (.ldF x) s = executed (s.setI (glyphAddr (s.getV x))) := rfl

theorem exec_ldB : exec (.ldB x) s
    = executed (((s.writeByte s.i (bcdHundreds (s.getV x))).writeByte (s.i + 1#12) (bcdTens (s.getV x))).writeByte
        (s.i + 2#12) (bcdOnes (s.getV x))) := by
  simp only [exec, execLdB, State.iPlus, BitVec.add_zero]

theorem exec_storeRegs : exec (.storeRegs x) s
    = executed ((s.setMem (storeBlock s.v s.i (x.val + 1) s.mem)).setI (s.iPlus (x.val + 1))) := rfl

theorem exec_loadRegs : exec (.loadRegs x) s
    = executed ((s.setRegs (loadBlock s.mem s.i (x.val + 1) s.v)).setI (s.iPlus (x.val + 1))) := rfl

variable {s} {i : Instr} {a : Addr}

/-- An instruction that ends by writing I completes and changes nothing else. -/
theorem next_of_exec_setI (h : exec i s = executed (s.setI a)) :
    ∃ t, exec i s = .next t ∧ t.status = .executed ∧ t.i = a ∧ unchangedExcept [.i] s t :=
  ⟨_, h, rfl, rfl, by simp⟩

end Sys2Proof
end

section
/-! PROOF. The statements of the family 42_index_memory.md. -/

namespace Sys2Proof

open Sys2Proof.Machine

/-- Settles O28: three stores at distinct addresses, and each digit fits its byte. -/
theorem bcdStoresThreeDigits : Obligations.BcdStoresThreeDigits := by
  intro s x
  refine ⟨_, exec_ldB s x, rfl, ?_, ?_, ?_, fun a h₀ h₁ h₂ => ?_, by simp⟩
  · simp [State.readByte_writeThree, bcdHundreds_toNat]
  · simp [State.readByte_writeThree, bcdTens_toNat]
  · simp [State.readByte_writeThree, bcdOnes_toNat]
  · simp [State.readByte_writeThree, h₀, h₁, h₂]

/-- Settles O29: what a block store leaves at each address, and the advance of I. -/
theorem blockStoreWritesV0ToVx : Obligations.BlockStoreWritesV0ToVx := by
  intro s x
  refine ⟨_, exec_storeRegs s x, rfl, fun k hk => ?_, fun a ha => ?_, s.iPlus_toNat (x.val + 1), by simp⟩
  · exact readByte_of_mem_storeBlock rfl hk
  · exact readByte_of_mem_storeBlock_outside rfl ha

/-- Settles O30: what a block load leaves in each register, and the advance of I. -/
theorem blockLoadReadsV0ToVx : Obligations.BlockLoadReadsV0ToVx := by
  intro s x
  refine ⟨_, exec_loadRegs s x, rfl, fun k hk => ?_, fun k hk => ?_, s.iPlus_toNat (x.val + 1), by simp⟩
  · exact (getV_of_v_loadBlock rfl k).trans (if_pos hk)
  · exact (getV_of_v_loadBlock rfl k).trans (if_neg hk.not_ge)

/-- Settles O31: the load reads at I + k, where the store (O29) left Vk; it reads memory alone, not the registers between. -/
theorem blockLoadUndoesBlockStore : Obligations.BlockLoadUndoesBlockStore := by
  intro s t x v ht
  obtain ⟨t', ht', -, hstored, -⟩ := blockStoreWritesV0ToVx s x
  obtain rfl : t' = t := Host.Outcome.next.inj (ht'.symm.trans ht)
  obtain ⟨u, hu, -, hloaded, -⟩ := blockLoadReadsV0ToVx ((t'.setRegs v).setI s.i) x
  exact ⟨u, hu, fun k hk => (hloaded k hk).trans (hstored k hk)⟩

/-- Settles O27: all three end by a write of I; the sum is reduced modulo 4096, and a glyph's address needs no reduction. -/
theorem addressRegisterWrites : Obligations.AddressRegisterWrites := by
  refine ⟨fun s nnn => next_of_exec_setI (exec_ldI s nnn), fun s x => ?_, fun s x => ?_⟩
  · obtain ⟨t, he, hstatus, hi, hframe⟩ := next_of_exec_setI (exec_addI s x)
    exact ⟨t, he, hstatus, by rw [hi, addrPlusByte_toNat], hframe⟩
  · obtain ⟨t, he, hstatus, hi, hframe⟩ := next_of_exec_setI (exec_ldF s x)
    exact ⟨t, he, hstatus, by rw [hi, glyphAddr_toNat], hframe⟩

end Sys2Proof
end

section
/-! PROOF. CLS and DRW in closed form, over the sprite the statements speak of (43_display.md R85 to R87). -/

namespace Sys2Proof

open Sys2Proof.Machine

variable {s t : State} {cx cy : Byte} {r : Fin 32} {c : Fin 64}

/-! ### The sprite -/

/-- The sprite of R86 lands where the blit loop toggles. -/
theorem spriteCovers_iff_blitHits {n : Nat} : spriteCovers s cx cy n r c ↔ blitHits s cx cy n r c := by
  simp only [spriteCovers, blitHits, rowHits, spriteBit, State.iPlus, spriteRow, spriteCol, Fin.ext_iff, Fin.val_ofNat]

/-- Where a sprite lands is read from I and memory alone, and a draw changes neither. -/
theorem spriteCovers_congr {L : List Item} (hu : unchangedExcept L s t)
    (hi : Item.i ∉ L := by simp) (hmem : Item.mem ∉ L := by simp) {n : Nat} :
    spriteCovers t cx cy n r c ↔ spriteCovers s cx cy n r c := by
  have hI : t.i = s.i := hu .i hi
  have hread : ∀ a, t.readByte a = s.readByte a := hu .mem hmem
  simp only [spriteCovers, hI, hread]

/-! ### What each instruction does -/

theorem exec_cls (s : State) : exec .cls s = executed ((s.setFb FrameBuffer.blank).setDraw true) := rfl

/-- The framebuffer and the collision that a draw of `n` rows leaves (R87). -/
def drawSprite (s : State) (cx cy : Byte) (n : Fin 16) : FrameBuffer × Bool :=
  blitRows s cx cy n.val (s.fb, false)

theorem exec_drw (s : State) (x y : RegIdx) (n : Fin 16) : exec (.drw x y n) s
    = executed (((s.setV vF (flagByte (drawSprite s (s.getV x) (s.getV y) n).2)).setFb
        (drawSprite s (s.getV x) (s.getV y) n).1).setDraw true) := rfl

theorem pixel_drawSprite (s : State) (cx cy : Byte) (n : Fin 16) (r : Fin 32) (c : Fin 64) :
    (spriteCovers s cx cy n.val r c →
      FrameBuffer.pixel (drawSprite s cx cy n).1 r c = !FrameBuffer.pixel s.fb r c)
    ∧ (¬ spriteCovers s cx cy n.val r c →
      FrameBuffer.pixel (drawSprite s cx cy n).1 r c = FrameBuffer.pixel s.fb r c) := by
  rw [spriteCovers_iff_blitHits]
  exact pixel_blitRows s cx cy (s.fb, false) n.isLt.le r c

theorem hit_drawSprite (s : State) (cx cy : Byte) (n : Fin 16) : (drawSprite s cx cy n).2 = true
    ↔ ∃ r c, spriteCovers s cx cy n.val r c ∧ FrameBuffer.pixel s.fb r c = true := by
  simp only [spriteCovers_iff_blitHits, drawSprite, hit_blitRows s cx cy _ n.isLt.le, Bool.false_eq_true, false_or]

end Sys2Proof
end

section
/-! PROOF. The statements of the family 43_display.md. -/

namespace Sys2Proof

open Sys2Proof.Machine

/-- Settles O35: the loop of DRW in closed form, and VF its collision. -/
theorem drwXorsTheSpriteAndReportsCollision : Obligations.DrwXorsTheSpriteAndReportsCollision := by
  intro s x y n
  refine ⟨_, exec_drw s x y n, rfl, pixel_drawSprite s (s.getV x) (s.getV y) n, fun hhit => ?_, fun hmiss => ?_,
    rfl, regsExcept_setV s vF _, by simp⟩
  · rw [← hit_drawSprite] at hhit
    simp [hhit, flagByte]
  · rw [← hit_drawSprite] at hmiss
    simp [hmiss, flagByte]

/-- Settles O36: the first draw (O35) moves neither the sprite nor its coordinates, so the second toggles the same pixels and collides on those that the first made 1. -/
theorem secondDrawUndoesTheFirst : Obligations.SecondDrawUndoesTheFirst := by
  intro s t x y n a hx hy ht
  obtain ⟨t', ht', -, hfirst, -, -, -, hregs, hframe⟩ := drwXorsTheSpriteAndReportsCollision s x y n
  obtain rfl : t' = t := Host.Outcome.next.inj (ht'.symm.trans ht)
  obtain ⟨u, hu, -, hsecond, hone, hzero, -⟩ := drwXorsTheSpriteAndReportsCollision (t'.setPc a) x y n
  have hframe' : unchangedExcept [.v, .fb, .draw, .pc] s (t'.setPc a) := by simpa using hframe.mono (by simp)
  simp only [State.getV_setPc, State.setPc_fb, hregs x (by simpa using hx), hregs y (by simpa using hy),
    spriteCovers_congr hframe'] at hsecond hone hzero
  refine ⟨u, hu, fun r c => ?_, ?_⟩
  · by_cases hcov : spriteCovers s (s.getV x) (s.getV y) n.val r c
    · rw [(hsecond r c).1 hcov, (hfirst r c).1 hcov, Bool.not_not]
    · rw [(hsecond r c).2 hcov, (hfirst r c).2 hcov]
  · have hpixel : ∀ r c, (spriteCovers s (s.getV x) (s.getV y) n.val r c ∧ FrameBuffer.pixel t'.fb r c = true)
        ↔ (spriteCovers s (s.getV x) (s.getV y) n.val r c ∧ FrameBuffer.pixel s.fb r c = false) :=
      fun r c => and_congr_right fun hcov => by rw [(hfirst r c).1 hcov, Bool.not_eq_true']
    simp only [hpixel] at hone hzero
    exact ⟨fun hvf => by_contra fun hmiss => by simp [hzero hmiss] at hvf, hone⟩

/-- Settles O34: a blank framebuffer has no pixel 1. -/
theorem clsClearsEveryPixel : Obligations.ClsClearsEveryPixel :=
  fun s => ⟨_, exec_cls s, rfl, FrameBuffer.pixel_blank, rfl, by simp⟩

/-- The top row of glyph 0 (R28), drawn once at the top left of the blank framebuffer: a first draw from here meets pixels that are 1. -/
def glyphTopOnScreen : State := State.reset.setFb (drawSprite State.reset 0#8 0#8 1).1

/-- Settles O37: on `glyphTopOnScreen` the first draw makes every covered pixel 0, so the second meets no pixel that is 1. -/
theorem secondDrawNeedNotCollide : Obligations.SecondDrawNeedNotCollide :=
  ⟨glyphTopOnScreen, _, _, rfl, rfl, by decide, by decide, by decide⟩

end Sys2Proof
end

section
/-! PROOF. The keys and timers as the instructions of 44_keys_timers.md use them: the key tested, the least key pressed, the write of ST (R88 to R93). -/

namespace Sys2Proof.Machine

variable {s : State} {k : KeyIdx}

/-- The least pressed key is pressed, and no key below it is (44_keys_timers.md R90). -/
theorem State.leastPressed_eq_some_iff :
    s.leastPressed = some k ↔ s.key[k.val] = true ∧ ∀ j : Fin 16, j < k → s.key[j.val] = false := by
  rw [State.leastPressed, ← Fin.find?_eq_find?_finRange, Fin.find?_eq_some_iff]
  rfl

/-- A key instruction tests the key in the low nibble of Vx (44_keys_timers.md, key index). -/
theorem keyOf_eq {vx : Byte} (hk : k.val = vx.toNat % 16) : keyOf vx = k :=
  Fin.ext (by simp [keyOf, hk])

@[simp] theorem State.writeSt_st (s : State) (b : Byte) : (s.writeSt b).st = b := by
  obtain ⟨-, -, h⟩ | ⟨-, -, h⟩ | ⟨-, h⟩ := s.writeSt_cases b <;> rw [h] <;> rfl

/-- A write of ST reports the change of the tone level, if it changes (44_keys_timers.md R93). -/
theorem State.writeSt_tone (s : State) (b : Byte) :
    (s.writeSt b).tone = s.tone ++ (if s.st = 0#8 ∧ b ≠ 0#8 then [ToneEdge.start]
      else if s.st ≠ 0#8 ∧ b = 0#8 then [ToneEdge.stop] else []) := by
  obtain ⟨hoff, hb, h⟩ | ⟨hon, hb, h⟩ | ⟨hlevel, h⟩ := s.writeSt_cases b
  · rw [h]
    simp [hoff, hb]
  · rw [h]
    simp [hon, hb]
  · rw [h]
    simp [hlevel]

end Sys2Proof.Machine

namespace Sys2Proof

open Sys2Proof.Machine

variable (s : State) (x : RegIdx)

theorem exec_skp : exec (.skp x) s = skipIf (s.pressed (keyOf (s.getV x))) s := rfl

theorem exec_sknp : exec (.sknp x) s = skipIf (!s.pressed (keyOf (s.getV x))) s := rfl

theorem exec_ldVxDt : exec (.ldVxDt x) s = executed (s.setV x s.dt) := rfl

theorem exec_ldDtVx : exec (.ldDtVx x) s = executed (s.setDt (s.getV x)) := rfl

theorem exec_ldStVx : exec (.ldStVx x) s = executed (s.writeSt (s.getV x)) := rfl

end Sys2Proof
end

section
/-! PROOF. A blocked state stays as it is, so the steps after it may be left out (60_exceptions.md R102). -/

namespace Sys2Proof

open Sys2Proof.Machine

variable {s t : State}

/-- No instruction stops the core (60_exceptions.md R94). -/
theorem exec_next (i : Instr) (s : State) : ∃ t, exec i s = .next t := by
  obtain ⟨u, h, -⟩ | ⟨kind, h, -⟩ | ⟨x, -, -, h⟩ := exec_cases i s
  · exact ⟨_, h⟩
  · exact ⟨_, h⟩
  · exact ⟨_, h⟩

/-- No step stops the core, on an unknown word either (30_encoding.md R51). -/
theorem step_next (s : State) : ∃ t, step s = .next t := by
  cases hd : decodeWord (s.fetch16 s.pc) with
  | ok i => simpa only [step_of_decoded hd] using exec_next i s.advancePc
  | error e => exact ⟨_, step_of_unknown hd⟩

/-- A blocked step has found no key and put PC back, so the next step finds the same and blocks again (44_keys_timers.md R90). -/
theorem step_of_step_blocked (h : step s = .next t) (hb : t.status = .blocked) : step t = .next t := by
  obtain ⟨⟨x, hd⟩, hk⟩ := keyWait_of_step_blocked h hb
  cases (step_keyWait hd hk).symm.trans h
  exact step_keyWait (s := s.setStatus .blocked) hd hk

theorem run_succ_of_step (n : Nat) (h : step s = .next t) :
    Host.Core.run core (n + 1) s = Host.Core.run core n t := by
  have hcore : core.step s = .next t := h
  simp only [Host.Core.run, hcore]

theorem run_of_fixed (n : Nat) (h : step s = .next s) : Host.Core.run core n s = .next s := by
  induction n with
  | zero => rfl
  | succ n ih => exact (run_succ_of_step n h).trans ih

theorem runSteps_succ_of_step (n : Nat) (h : step s = .next t) :
    runSteps (n + 1) s = if t.status = .blocked then .next t else runSteps n t := by
  simp only [runSteps, h]

end Sys2Proof
end

section
/-! PROOF. The statements of the family 44_keys_timers.md. -/

namespace Sys2Proof

open Sys2Proof.Machine

/-- Settles O39: the least key pressed goes to Vx, and 16 keys fit a byte; with none pressed PC loses the 2 of the fetch. -/
theorem keyWaitTakesTheLeastKeyOrBlocks : Obligations.KeyWaitTakesTheLeastKeyOrBlocks := by
  intro s x a ha
  constructor
  · intro k hpressed hleast
    have hk : s.leastPressed = some k := State.leastPressed_eq_some_iff.mpr ⟨hpressed, hleast⟩
    obtain ⟨t, he, hstatus, hkey, hframe⟩ := next_of_exec_setV (exec_ldVxK_of_pressed x hk)
    have hfits : (BitVec.ofNat 8 k.val).toNat = k.val := by rw [BitVec.toNat_ofNat]; omega
    exact ⟨t, he, hstatus, by rw [hkey, hfits], hframe⟩
  · intro hnone
    exact ⟨_, exec_ldVxK_blocks x (State.leastPressed_eq_none_iff.mpr hnone), rfl, instrAddr_eq ha, by simp⟩

/-- Settles O44, by induction over the steps: they part only at a blocked state, which no further step changes. -/
theorem earlyEndOfABlockedFrameIsNotObservable : Obligations.EarlyEndOfABlockedFrameIsNotObservable := by
  intro n
  induction n with
  | zero => exact fun s => rfl
  | succ n ih =>
    intro s
    obtain ⟨t, ht⟩ := step_next s
    rw [runSteps_succ_of_step n ht, run_succ_of_step n ht]
    by_cases hb : t.status = .blocked
    · exact (if_pos hb).trans (run_of_fixed n (step_of_step_blocked ht hb)).symm
    · exact (if_neg hb).trans (ih t)

/-- Settles O38: both instructions are a skip on the key in the low nibble of Vx. -/
theorem keySkips : Obligations.KeySkips := by
  intro s x k hk
  rw [exec_skp, exec_sknp, keyOf_eq hk]
  refine ⟨skipIf_next s Iff.rfl, ?_⟩
  have hreleased : (!s.pressed k) = true ↔ ¬ s.key[k.val] = true := by simp [State.pressed]
  simpa only [ite_not] using skipIf_next s hreleased

/-- Settles O40: FX07 ends by a write of Vx, FX15 by a write of DT. -/
theorem delayTimerMoves : Obligations.DelayTimerMoves :=
  fun s x => ⟨next_of_exec_setV (exec_ldVxDt s x), _, exec_ldDtVx s x, rfl, rfl, by simp⟩

/-- Settles O41: the write of ST with the edge it reports. -/
theorem soundTimerWriteReportsTheEdge : Obligations.SoundTimerWriteReportsTheEdge := by
  intro s x
  exact ⟨_, exec_ldStVx s x, rfl, s.writeSt_st _, by simp [State.writeSt_tone], by simp⟩

end Sys2Proof
end

section
/-! PROOF. The diagnostic of a step: its cause, and the state it leaves (60_exceptions.md R94, R95). -/

namespace Sys2Proof

open Sys2Proof.Machine

variable {s t : State} {i : Instr} {kind : DiagKind}

/-- An instruction with a cause to raise a diagnostic raises it and does nothing else. -/
theorem DiagCause.exec_eq (h : DiagCause kind i s) :
    exec i s = raiseDiagnostic kind s.instrAddr (encode i) s := by
  cases h with
  | sys nnn => rfl
  | call nnn full => exact exec_call_full nnn full
  | ret empty => exact exec_ret_empty empty

/-- Why a step raises a diagnostic of this kind: its word is unknown, or its instruction has a cause (60_exceptions.md R95). -/
inductive StepDiagCause (s : State) : DiagKind → Prop where
  | word (listed : unknownWord (s.fetch16 s.pc)) : StepDiagCause s .unknownOpcode
  | instr {kind : DiagKind} (i : Instr) (decoded : decodeWord (s.fetch16 s.pc) = .ok i)
    (cause : DiagCause kind i s.advancePc) : StepDiagCause s kind

/-- The state a diagnosed step leaves: PC past the instruction, and the event with the step's own address and word (60_exceptions.md R94). -/
def diagnosedStep (kind : DiagKind) (s : State) : State :=
  (s.advancePc.emitDiag ⟨kind, s.pc, s.fetch16 s.pc⟩).setStatus (.diagnosed kind)

@[simp] theorem diagnosedStep_status : (diagnosedStep kind s).status = .diagnosed kind := rfl

@[simp] theorem diagnosedStep_pc : (diagnosedStep kind s).pc = s.pc + 2#12 := rfl

@[simp] theorem diagnosedStep_diag :
    (diagnosedStep kind s).diag = s.diag ++ [⟨kind, s.pc, s.fetch16 s.pc⟩] := rfl

theorem diagnosedStep_frame (kind : DiagKind) (s : State) :
    unchangedExcept [.pc, .diag] s (diagnosedStep kind s) := by
  simp [diagnosedStep]

/-- The event of a decoded instruction holds the step's own address and word. -/
theorem raiseDiagnostic_of_decoded (hd : decodeWord (s.fetch16 s.pc) = .ok i) :
    raiseDiagnostic kind s.advancePc.instrAddr (encode i) s.advancePc = .next (diagnosedStep kind s) := by
  obtain ⟨hword, -, -⟩ := encode_of_decodeWord_ok hd
  have haddr : s.advancePc.instrAddr = s.pc := instrAddr_eq s.advancePc_pc
  rw [hword, haddr, raiseDiagnostic_eq]
  rfl

theorem step_of_diagCause (h : StepDiagCause s kind) : step s = .next (diagnosedStep kind s) := by
  cases h with
  | word listed => exact step_of_unknown (decodeWord_unknown_iff.mpr listed)
  | instr i decoded cause => rw [step_of_decoded decoded, cause.exec_eq, raiseDiagnostic_of_decoded decoded]

theorem unknownWord_of_decodeWord_error {w : Word} {e : DecodeError} (h : decodeWord w = .error e) :
    unknownWord w := by
  cases h ▸ decodeWord_answer w with
  | unknown listed => exact listed

/-- A step raises the diagnostic it has a cause for, or ends otherwise and appends no event. -/
theorem step_diag_cases (h : step s = .next t) :
    (∃ kind, StepDiagCause s kind ∧ t = diagnosedStep kind s)
    ∨ ((∀ kind, t.status ≠ .diagnosed kind) ∧ t.diag = s.diag) := by
  obtain ⟨i, hd, he⟩ | ⟨⟨e, hd⟩, rfl⟩ := step_cases h
  · obtain ⟨u, hu, hdiag, -⟩ | ⟨kind, -, hcause⟩ | ⟨x, -, -, hu⟩ := exec_cases i s.advancePc
    · cases hu.symm.trans he
      exact .inr ⟨by simp, hdiag⟩
    · have hc : StepDiagCause s kind := .instr i hd hcause
      cases (step_of_diagCause hc).symm.trans h
      exact .inl ⟨kind, hc, rfl⟩
    · cases hu.symm.trans he
      exact .inr ⟨by simp, rfl⟩
  · exact .inl ⟨.unknownOpcode, .word (unknownWord_of_decodeWord_error hd), rfl⟩

theorem eq_diagnosedStep_of_status (h : step s = .next t) (hk : t.status = .diagnosed kind) :
    StepDiagCause s kind ∧ t = diagnosedStep kind s := by
  obtain ⟨kind', hc, rfl⟩ | ⟨hnone, -⟩ := step_diag_cases h
  · cases hk
    exact ⟨hc, rfl⟩
  · exact absurd hk (hnone kind)

/-- A step ends Diagnosed(kind) exactly when it has a cause of that kind. -/
theorem step_diagnosed_iff (h : step s = .next t) : t.status = .diagnosed kind ↔ StepDiagCause s kind := by
  refine ⟨fun hk => (eq_diagnosedStep_of_status h hk).1, fun hc => ?_⟩
  cases (step_of_diagCause hc).symm.trans h
  rfl

/-! ### The causes of each kind -/

theorem stepDiagCause_unknownOpcode_iff : StepDiagCause s .unknownOpcode ↔
    unknownWord (s.fetch16 s.pc) ∨ ∃ nnn, decodeWord (s.fetch16 s.pc) = .ok (.sys nnn) := by
  constructor
  · rintro (listed | ⟨i, decoded, cause⟩)
    · exact .inl listed
    · cases cause with
      | sys nnn => exact .inr ⟨nnn, decoded⟩
  · rintro (listed | ⟨nnn, decoded⟩)
    · exact .word listed
    · exact .instr _ decoded (.sys nnn _)

theorem stepDiagCause_stackOverflow_iff : StepDiagCause s .stackOverflow ↔
    (∃ nnn, decodeWord (s.fetch16 s.pc) = .ok (.call nnn)) ∧ s.sp.val = 16 := by
  constructor
  · rintro (_ | ⟨i, decoded, cause⟩)
    cases cause with
    | call nnn full => exact ⟨⟨nnn, decoded⟩, full⟩
  · rintro ⟨⟨nnn, decoded⟩, full⟩
    exact .instr _ decoded (.call nnn full)

theorem stepDiagCause_stackUnderflow_iff : StepDiagCause s .stackUnderflow ↔
    decodeWord (s.fetch16 s.pc) = .ok .ret ∧ s.sp.val = 0 := by
  constructor
  · rintro (_ | ⟨i, decoded, cause⟩)
    cases cause with
    | ret empty => exact ⟨decoded, empty⟩
  · rintro ⟨decoded, empty⟩
    exact .instr _ decoded (.ret empty)

end Sys2Proof
end

section
/-! PROOF. The random source: every instruction but RND runs alike whatever number of draws came before (60_exceptions.md R111). -/

namespace Sys2Proof

open Sys2Proof.Machine

variable {s t : State} {i : Instr}

theorem Instr.draws_mem_mayWrite_iff : Item.draws ∈ i.mayWrite ↔ ∃ x nn, i = .rnd x nn := by
  cases i <;> simp [Instr.mayWrite]

theorem skipIf_withDraws (k : Nat) {cond : Bool} (h : skipIf cond s = .next t) :
    skipIf cond { s with draws := k } = .next { t with draws := k } := by
  cases cond <;> cases h <;> rfl

theorem blitRows_withDraws (s : State) (k : Nat) (cx cy : Byte) (n : Nat) (p : FrameBuffer × Bool) :
    blitRows { s with draws := k } cx cy n p = blitRows s cx cy n p := by
  induction n with
  | zero => rfl
  | succ n ih => simp only [blitRows, ih]; rfl

theorem writeSt_withDraws (s : State) (k : Nat) (b : Byte) :
    State.writeSt { s with draws := k } b = { s.writeSt b with draws := k } := by
  unfold State.writeSt
  split_ifs <;> rfl

/-- The count of draws goes through every instruction but RND untouched and unread. -/
theorem exec_withDraws (k : Nat) (hi : ∀ x nn, i ≠ .rnd x nn) (h : exec i s = .next t) :
    exec i { s with draws := k } = .next { t with draws := k } := by
  cases i with
  | rnd x nn => exact absurd rfl (hi x nn)
  | ret =>
    by_cases hsp : s.sp.val = 0
    · cases (exec_ret_empty hsp).symm.trans h
      exact exec_ret_empty hsp
    · cases (exec_ret_of_held (Nat.pos_of_ne_zero hsp)).symm.trans h
      exact exec_ret_of_held (s := { s with draws := k }) (Nat.pos_of_ne_zero hsp)
  | call nnn =>
    by_cases hsp : s.sp.val = 16
    · cases (exec_call_full nnn hsp).symm.trans h
      exact exec_call_full nnn hsp
    · have hroom : s.sp.val < 16 := by omega
      cases (exec_call_of_room nnn hroom).symm.trans h
      exact exec_call_of_room (s := { s with draws := k }) nnn hroom
  | ldVxK x =>
    cases hkey : s.leastPressed with
    | none =>
      cases (exec_ldVxK_blocks x hkey).symm.trans h
      exact exec_ldVxK_blocks (s := { s with draws := k }) x hkey
    | some key =>
      cases (exec_ldVxK_of_pressed x hkey).symm.trans h
      exact exec_ldVxK_of_pressed (s := { s with draws := k }) x hkey
  | seImm | sneImm | seReg | sneReg | skp | sknp => exact skipIf_withDraws k h
  | drw x y n =>
    cases h
    simp only [exec, execDrw, blitRows_withDraws]
    rfl
  | ldStVx x =>
    cases h
    rw [exec_ldStVx, writeSt_withDraws]
    rfl
  | _ =>
    cases h
    rfl

end Sys2Proof
end

section
/-! PROOF. The invariant of the core: what keeps memory canonical, and what keeps the tone stream in step with ST (60_exceptions.md R105, R106). -/

namespace Sys2Proof

open Sys2Proof.Machine

variable {s t : State} {i : Instr}

/-! ### The tone stream -/

/-- The edges to report when the tone level goes from one value to another (60_exceptions.md R106). -/
def toneEdges : Bool → Bool → List ToneEdge
  | false, true => [.start]
  | true, false => [.stop]
  | false, false | true, true => []

theorem toneReplay_toneEdges {es : List ToneEdge} {level level' : Bool}
    (h : toneReplay false es = some level) : toneReplay false (es ++ toneEdges level level') = some level' := by
  cases level <;> cases level'
  · simpa [toneEdges] using h
  · exact toneReplay_append .start h
  · exact toneReplay_append .stop h
  · simpa [toneEdges] using h

/-- A change of the state that reports its change of the tone level keeps the stream in step with ST. -/
theorem toneReported.of_edges (hs : toneReported s) (h : t.tone = s.tone ++ toneEdges s.toneOn t.toneOn) :
    toneReported t := by
  rw [toneReported, h]
  exact toneReplay_toneEdges hs

/-- The edges between two states, read off ST (60_exceptions.md R105). -/
theorem toneEdges_toneOn (s t : State) : toneEdges s.toneOn t.toneOn
    = if s.st = 0#8 ∧ t.st ≠ 0#8 then [ToneEdge.start]
      else if s.st ≠ 0#8 ∧ t.st = 0#8 then [ToneEdge.stop] else [] := by
  by_cases hs : s.st = 0#8 <;> by_cases ht : t.st = 0#8 <;>
    simp [State.toneOn, bne_iff_ne.mpr, hs, ht, toneEdges]

theorem toneReported_writeSt (b : Byte) (hs : toneReported s) : toneReported (s.writeSt b) :=
  hs.of_edges (by rw [State.writeSt_tone, toneEdges_toneOn, State.writeSt_st])

/-- The tick turns no tone on, and turns it off exactly when ST was 1 (60_exceptions.md R103). -/
theorem toneReported_tick (hs : toneReported s) : toneReported (tick s) := by
  have hst : (tick s).st.toNat = s.st.toNat - 1 := tick_st s
  have hstart : ¬ (s.st = 0#8 ∧ (tick s).st ≠ 0#8) := by bv_omega
  have hstop : (s.st ≠ 0#8 ∧ (tick s).st = 0#8) ↔ s.st = 1#8 := by bv_omega
  exact hs.of_edges (by simp only [tick_tone, toneEdges_toneOn, if_neg hstart, hstop])

theorem Instr.st_mem_mayWrite_iff : Item.st ∈ i.mayWrite ↔ ∃ x, i = .ldStVx x := by
  cases i <;> simp [Instr.mayWrite]

/-- Only FX18 touches ST or the stream, and it reports its change of the level. -/
theorem exec_toneReported (hs : toneReported s) (h : exec i s = .next t) : toneReported t := by
  by_cases hi : ∃ x, i = .ldStVx x
  · obtain ⟨x, rfl⟩ := hi
    cases h
    exact toneReported_writeSt _ hs
  · obtain ⟨hframe, -⟩ := exec_frame h
    have hst : t.st = s.st := hframe .st (mt Instr.st_mem_mayWrite_iff.mp hi)
    have htone : t.tone = s.tone := hframe .tone (mt Instr.tone_mem_mayWrite_iff.mp hi)
    rwa [toneReported, State.toneOn, hst, htone]

/-! ### Memory -/

theorem skipIf_mem {cond : Bool} (h : skipIf cond s = .next t) : t.mem = s.mem := by
  cases cond <;> cases h <;> rfl

theorem writeSt_mem (s : State) (b : Byte) : (s.writeSt b).mem = s.mem := by
  obtain ⟨-, -, h⟩ | ⟨-, -, h⟩ | ⟨-, h⟩ := s.writeSt_cases b <;> rw [h] <;> rfl

/-- An instruction that may not write memory leaves its list of cells as it is. -/
theorem exec_mem (h : exec i s = .next t) (hi : Item.mem ∉ i.mayWrite) : t.mem = s.mem := by
  cases i with
  | ldB | storeRegs => simp [Instr.mayWrite] at hi
  | ret =>
    by_cases hsp : s.sp.val = 0
    · cases (exec_ret_empty hsp).symm.trans h
      rfl
    · cases (exec_ret_of_held (Nat.pos_of_ne_zero hsp)).symm.trans h
      rfl
  | call nnn =>
    by_cases hsp : s.sp.val = 16
    · cases (exec_call_full nnn hsp).symm.trans h
      rfl
    · cases (exec_call_of_room nnn (by omega)).symm.trans h
      rfl
  | ldVxK x =>
    cases hkey : s.leastPressed with
    | none =>
      cases (exec_ldVxK_blocks x hkey).symm.trans h
      rfl
    | some key =>
      cases (exec_ldVxK_of_pressed x hkey).symm.trans h
      rfl
  | seImm | sneImm | seReg | sneReg | skp | sknp => exact skipIf_mem h
  | ldStVx x =>
    cases h
    exact writeSt_mem s _
  | _ =>
    cases h
    rfl

theorem Instr.mem_mem_mayWrite_iff : Item.mem ∈ i.mayWrite ↔ ∃ x, i = .ldB x ∨ i = .storeRegs x := by
  cases i <;> simp [Instr.mayWrite]

/-- FX33 and FX55 write memory byte by byte at 12-bit addresses, which keeps the canonical form. -/
theorem exec_wf (hs : s.mem.wf = true) (h : exec i s = .next t) : t.mem.wf = true := by
  by_cases hi : Item.mem ∈ i.mayWrite
  · obtain ⟨x, rfl | rfl⟩ := Instr.mem_mem_mayWrite_iff.mp hi
    · cases h
      exact State.writeByte_wf _ _ (State.writeByte_wf _ _ (State.writeByte_wf _ _ hs))
    · cases h
      exact wf_storeBlock _ _ _ hs
  · rwa [exec_mem h hi]

/-! ### Steps, ticks, frames -/

theorem exec_coreInv (hs : coreInv s) (h : exec i s = .next t) : coreInv t := by
  obtain ⟨hwf, htone⟩ := hs
  exact ⟨exec_wf hwf h, exec_toneReported htone h⟩

/-- The invariant speaks of memory, the tone stream and ST alone, so the fetch and a diagnostic keep it. -/
theorem step_coreInv (hs : coreInv s) (h : step s = .next t) : coreInv t := by
  obtain ⟨i, -, he⟩ | ⟨-, rfl⟩ := step_cases h
  · exact exec_coreInv (s := s.advancePc) hs he
  · exact hs

theorem runSteps_coreInv {n : Nat} (hs : coreInv s) (h : runSteps n s = .next t) : coreInv t :=
  runSteps_induction (P := fun _ s t => coreInv s → coreInv t) (fun _ _ => id)
    (fun _ _ _ _ hstep ih hs => ih (step_coreInv hs hstep)) h hs

theorem tickDelay_mem (s : State) : (tickDelay s).mem = s.mem := by
  obtain ⟨-, h⟩ | ⟨-, h⟩ := tickDelay_cases s <;> simp [h]

theorem tickSound_mem (s : State) : (tickSound s).mem = s.mem := by
  obtain ⟨-, h⟩ | ⟨-, h⟩ | ⟨-, h⟩ := tickSound_cases s <;> simp [h]

theorem tick_mem (s : State) : (tick s).mem = s.mem :=
  (tickSound_mem _).trans (tickDelay_mem s)

theorem tick_coreInv (hs : coreInv s) : coreInv (tick s) := by
  obtain ⟨hwf, htone⟩ := hs
  exact ⟨(congrArg Memory.wf (tick_mem s)).trans hwf, toneReported_tick htone⟩

theorem advanceFrame_coreInv {ipf : Nat} (hs : coreInv s) (h : advanceFrame ipf s = .next t) : coreInv t := by
  obtain ⟨u, hu, rfl⟩ := advanceFrame_cases h
  exact tick_coreInv (runSteps_coreInv hs hu)

end Sys2Proof
end

section
/-! PROOF. The host operations one by one: totality of frames, what loading a program and setting a key do (60_exceptions.md R102 to R110). -/

namespace Sys2Proof

open Sys2Proof.Machine

variable {s t : State} {L : List Item}

theorem run_next (n : Nat) (s : State) : ∃ t, Host.Core.run core n s = .next t := by
  induction n generalizing s with
  | zero => exact ⟨s, rfl⟩
  | succ n ih =>
    obtain ⟨u, hu⟩ := step_next s
    rw [run_succ_of_step n hu]
    exact ih u

/-- The steps of a frame reach the state all of them reach without an early end, so they reach one. -/
theorem runSteps_next (n : Nat) (s : State) : ∃ t, runSteps n s = .next t := by
  rw [earlyEndOfABlockedFrameIsNotObservable n s]
  exact run_next n s

theorem advanceFrame_of_runSteps {ipf : Nat} (h : runSteps ipf s = .next t) :
    advanceFrame ipf s = .next (tick t) := by
  simp only [advanceFrame, h]

/-- An image that fits is copied at addresses below 4096, and one that does not changes nothing (70_reset_and_hazards.md R116, R117). -/
theorem loadProgram_coreInv (bytes : List Byte) (hs : coreInv s) : coreInv (loadProgram bytes s).1 := by
  obtain ⟨hwf, htone⟩ := hs
  unfold loadProgram
  split
  · exact ⟨hwf, htone⟩
  · next hfits =>
    have hend : loadBase + bytes.length ≤ 4096 := by
      simp only [maxImage, loadBase] at hfits ⊢
      omega
    exact ⟨wf_copyBytes bytes loadBase s.mem hwf hend, htone⟩

theorem setKey_of_lt {index : Nat} (h : index < 16) (pressed : Bool) (s : State) :
    setKey index pressed s = (s.setKeyBit ⟨index, h⟩ pressed, none) :=
  dif_pos h

theorem setKey_of_ge {index : Nat} (h : 16 ≤ index) (pressed : Bool) (s : State) :
    setKey index pressed s = (s, some .invalidKey) :=
  dif_neg (by omega)

theorem setKey_coreInv (index : Nat) (pressed : Bool) (hs : coreInv s) : coreInv (setKey index pressed s).1 := by
  by_cases h : index < 16
  · rw [setKey_of_lt h]
    exact hs
  · rw [setKey_of_ge (by omega)]
    exact hs

@[simp] theorem unchangedExcept_setKeyBit {k : KeyIdx} {p : Bool} (hL : Item.key ∈ L) :
    unchangedExcept L s (t.setKeyBit k p) ↔ unchangedExcept L s t :=
  unchangedExcept_update hL fun item hne => by cases item <;> trivial

end Sys2Proof
end

section
/-! PROOF. The statements of the family 60_exceptions.md. -/

namespace Sys2Proof

open Sys2Proof.Machine

/-- Settles O56: memory is written only inside the address space, and only FX18 changes the tone level in a step. -/
theorem everyStepKeepsTheInvariant : Obligations.EveryStepKeepsTheInvariant :=
  fun _ _ hs h => step_coreInv hs h

/-- Settles O7: an instruction completes, raises a diagnostic or blocks, and each goes on; by induction so do the steps. -/
theorem theCoreNeverStops : Obligations.TheCoreNeverStops :=
  ⟨exec_next, step_next, run_next⟩

/-- Settles O8: the state a diagnosed step leaves, and the other endings append no event. -/
theorem diagnosedStepHasNoOtherEffect : Obligations.DiagnosedStepHasNoOtherEffect := by
  intro s t h
  constructor
  · intro kind hk
    obtain ⟨-, rfl⟩ := eq_diagnosedStep_of_status h hk
    exact ⟨diagnosedStep_pc, diagnosedStep_diag, diagnosedStep_frame kind s⟩
  · intro hnone
    obtain ⟨kind, -, rfl⟩ | ⟨-, hdiag⟩ := step_diag_cases h
    · exact absurd diagnosedStep_status (hnone kind)
    · exact hdiag

/-- Settles O9: a step is diagnosed exactly for a cause, and each kind has its own. -/
theorem diagnosticsHaveExactlyTheirCauses : Obligations.DiagnosticsHaveExactlyTheirCauses := by
  intro s t h
  refine ⟨(step_diagnosed_iff h).trans stepDiagCause_unknownOpcode_iff,
    (step_diagnosed_iff h).trans stepDiagCause_stackOverflow_iff,
    (step_diagnosed_iff h).trans stepDiagCause_stackUnderflow_iff, fun kind hk => ?_⟩
  obtain ⟨-, rfl⟩ := eq_diagnosedStep_of_status h hk
  exact diagnosedStep_diag

/-- Settles O26: the count of draws is in no other instruction's frame, and no other meaning reads it. -/
theorem onlyRndUsesTheRandomSource : Obligations.OnlyRndUsesTheRandomSource := by
  intro i s t k hi h
  have hdraws : Item.draws ∉ i.mayWrite := by
    rw [Instr.draws_mem_mayWrite_iff]
    rintro ⟨x, nn, rfl⟩
    exact hi x nn rfl
  exact ⟨(exec_frame h).1 .draws hdraws, exec_withDraws k hi h⟩

/-- Settles O43: the equations of the steps; they reach a state, and the frame ticks it. -/
theorem frameRunsStepsThenTicksOnce : Obligations.FrameRunsStepsThenTicksOnce := by
  refine ⟨fun _ => rfl, fun n _ _ h => runSteps_succ_of_step n h, fun ipf s => ?_⟩
  obtain ⟨u, hu⟩ := runSteps_next ipf s
  exact ⟨u, hu, advanceFrame_of_runSteps hu⟩

/-- Settles O58, operation by operation; a frame is its steps and one tick. -/
theorem everyHostOperationKeepsTheInvariant : Obligations.EveryHostOperationKeepsTheInvariant := by
  intro ipf op s t r hs h
  cases op with
  | reset =>
    cases h
    exact resetMeetsTheInvariant
  | loadProgram bytes =>
    cases h
    exact loadProgram_coreInv bytes hs
  | setKey index pressed =>
    cases h
    exact setKey_coreInv index pressed hs
  | advanceFrame =>
    obtain ⟨u, hu⟩ := runSteps_next ipf s
    have hframe : advanceFrame ipf s = .next (tick u) := advanceFrame_of_runSteps hu
    simp only [runHostOp, hframe] at h
    cases h
    exact advanceFrame_coreInv hs hframe
  | frameBuffer =>
    cases h
    exact hs
  | consumeDrawFlag =>
    cases h
    exact hs

/-- Settles O42: the tick's effect on each item, and the frame as the tick of its steps. -/
theorem tickDecrementsNonzeroTimers : Obligations.TickDecrementsNonzeroTimers :=
  fun s => ⟨tick_dt s, tick_st s, tick_tone s, tick_frame s, fun _ _ hu => advanceFrame_of_runSteps hu⟩

/-- Settles O50: an index below 16 sets its bit of KEY, any other is refused. -/
theorem setKeyWritesOneKeyOrFails : Obligations.SetKeyWritesOneKeyOrFails := by
  intro index pressed s
  refine ⟨fun h => ?_, fun h => setKey_of_ge h pressed s⟩
  rw [setKey_of_lt h]
  refine ⟨rfl, ?_, fun j hj => ?_, by simp⟩
  · simp [h]
  · simp [Vector.getElem?_set_ne _ hj.symm]

/-- Settles O51: `consumeDrawFlag` writes DRAW alone, and `frameBuffer` is the grid. -/
theorem hostReadsOfTheDisplay : Obligations.HostReadsOfTheDisplay := by
  intro s
  have hframe : unchangedExcept [.draw] s (s.setDraw false) := by simp
  exact ⟨rfl, rfl, rfl, hframe, fun _ _ => rfl, fun _ => rfl⟩

end Sys2Proof
end

section
/-! PROOF. Loading a program and reading memory after reset: the two endings of `loadProgram`, the bytes an image leaves, the font bytes (70_reset_and_hazards.md R114, R116, R117). -/

namespace Sys2Proof

open Sys2Proof.Machine

variable {bytes : List Byte} {k : Nat} {b : Byte} {a : Addr}

theorem loadProgram_of_fits (h : bytes.length ≤ 3584) (s : State) :
    loadProgram bytes s = (s.setMem (copyBytes bytes loadBase s.mem), none) :=
  if_neg (Nat.not_lt.mpr h)

theorem loadProgram_of_too_large (h : 3584 < bytes.length) (s : State) :
    loadProgram bytes s = (s, some .imageTooLarge) :=
  if_pos h

/-- Byte k of an image that fits stands at 0x200 + k: no address of the image wraps (70_reset_and_hazards.md R116). -/
theorem readByte_loadProgram_inside (h : bytes.length ≤ 3584) (hk : bytes[k]? = some b) (s : State) :
    (loadProgram bytes s).1.readByte (BitVec.ofNat 12 (0x200 + k)) = b := by
  obtain ⟨hlt, -⟩ := List.getElem?_eq_some_iff.mp hk
  have haddr : (BitVec.ofNat 12 (0x200 + k)).toNat = 0x200 + k := Nat.mod_eq_of_lt (by omega)
  have hin : loadBase ≤ 0x200 + k ∧ 0x200 + k < loadBase + bytes.length := by
    simp only [loadBase]
    omega
  rw [loadProgram_of_fits h, State.readByte, State.setMem_mem, haddr, read_copyBytes, if_pos hin]
  simp [loadBase, hk]

/-- Memory beyond an image that fits keeps its bytes (70_reset_and_hazards.md R116). -/
theorem readByte_loadProgram_outside (h : bytes.length ≤ 3584)
    (ha : a.toNat < 0x200 ∨ 0x200 + bytes.length ≤ a.toNat) (s : State) :
    (loadProgram bytes s).1.readByte a = s.readByte a := by
  have hout : ¬ (loadBase ≤ a.toNat ∧ a.toNat < loadBase + bytes.length) := by
    simp only [loadBase]
    omega
  rw [loadProgram_of_fits h, State.readByte, State.setMem_mem, read_copyBytes, if_neg hout, State.readByte]

/-- Below 0x050 an unlisted address reads as the font byte there (10_state.md R28). -/
theorem font_getElem?_of_lt {n : Nat} (h : n < 0x050) : font[n]? = some (unlistedByte n) := by
  have hlt : n < font.length := h
  rw [unlistedByte, List.getD_eq_getElem _ _ hlt, List.getElem?_eq_getElem hlt]

end Sys2Proof
end

section
/-! PROOF. The statements of the family 70_reset_and_hazards.md. -/

namespace Sys2Proof

open Sys2Proof.Machine

/-- Settles O49: an image that fits is read back byte by byte, and only memory is written; a larger one is refused. -/
theorem loadProgramCopiesOrFails : Obligations.LoadProgramCopiesOrFails := by
  intro bytes s
  refine ⟨fun h => ⟨?_, fun k b hk => readByte_loadProgram_inside h hk s,
    fun a ha => readByte_loadProgram_outside h ha s, ?_⟩, fun h => loadProgram_of_too_large h s⟩
  · rw [loadProgram_of_fits h]
  · simp [loadProgram_of_fits h]

/-- Settles O53: but for the count of draws, the state is `State.reset`, whose items `resetHoldsTheStatedValues` gives. -/
theorem resetOperationForgetsTheStateBefore : Obligations.ResetOperationForgetsTheStateBefore := by
  intro s
  obtain ⟨hv, hi, hpc, hsp, hstack, hdt, hst, hkey, hfb, hdraw, -, htone, hdiag, -, hzero⟩ :=
    resetHoldsTheStatedValues
  exact ⟨hv, hi, hpc, hsp, hstack, hdt, hst, hkey, hfb, hdraw, htone, hdiag,
    fun _ ha => font_getElem?_of_lt ha, hzero⟩

end Sys2Proof
end

section
/-! PROOF. The statement of the family 'other'. -/

namespace Sys2Proof

open Sys2Proof.Machine

/-- Settles O59: `hostReset` takes every item from `State.reset` except the count of draws, which it takes from the state before. -/
theorem resetOperationKeepsTheDrawCount : Obligations.ResetOperationKeepsTheDrawCount := by
  intro s
  rfl

end Sys2Proof
end
